-- ==== Sys2Proof/Word.lean ====
section
/-! DEFINITION. The widths of spec/00_scope.md R11 and R13: host registers and command words have 16 bits,
bytes on the bus 8 bits, wire-level acknowledgment bits one bit. Bit 0 is the least significant bit. -/

namespace Sys2Proof

/-- A host register or a command word (R13, R110). -/
abbrev Word := BitVec 16

/-- A byte carried by the two-wire bus (R13, R16). -/
abbrev Byte := BitVec 8

/-- An acknowledgment bit as it stands on the wire: 0 is ACK, 1 is NACK (R16, R19). -/
abbrev Bit := BitVec 1

end Sys2Proof
end

