-- ==== Sys2Proof/Syntax.lean ====
section
/-! DEFINITION. The command set of spec/30_encoding.md R111: one constructor per row of spec/opcode_table.json.
Operand bits a command does not use are ignored (R113), but `CMD` and `SEQ.arg` keep them (R36, R41), so they are
part of the syntax: every bit of a command word stands in exactly one field. -/

namespace Sys2Proof

inductive Instr where
  /-- `START`, R151; the operand is ignored. -/
  | start (operand : Byte)
  /-- `RESTART`, R152; the operand is ignored. -/
  | restart (operand : Byte)
  /-- `SEND b`, R153; `b` is the byte to transmit. -/
  | send (b : Byte)
  /-- `RECV n`, R154; `n` is the acknowledgment bit to drive, bits 7:1 are ignored. -/
  | recv (unused : BitVec 7) (n : Bit)
  /-- `STOP`, R155; the operand is ignored. -/
  | stop (operand : Byte)
  /-- `PWRON`, R175; the operand is ignored. -/
  | pwron (operand : Byte)
  /-- `PWROFF`, R176; the operand is ignored. -/
  | pwroff (operand : Byte)
  /-- `SETTIM v`, R177; `v` is the timing-register value. -/
  | settim (v : Byte)
  /-- `RDID`, R178; the operand is ignored. -/
  | rdid (operand : Byte)
  /-- `RDCH c`, R179; `c` is the channel, bits 7:1 are ignored. -/
  | rdch (unused : BitVec 7) (c : Bit)
  /-- `RDLUX`, R192; the operand is ignored. -/
  | rdlux (operand : Byte)
  /-- `INIT`, R222; the operand is ignored. -/
  | init (operand : Byte)
  deriving DecidableEq, Repr

end Sys2Proof
end

