-- ==== Sys2Proof/WellFormed.lean ====
section
/-! DEFINITION. Which command words are well-formed: those with one of the twelve legal opcodes of
spec/30_encoding.md R111; R115 lists the illegal ones. A term of `Instr` needs no check of its own: its fields have
exactly the widths of the encoding (R110), so every term is an instruction. -/

namespace Sys2Proof

/-- The opcode set `{0x01..0x05, 0x10..0x16}` of R114. -/
def legalOpcode (op : Byte) : Bool :=
  (0x01 ≤ op.toNat && op.toNat ≤ 0x05) || (0x10 ≤ op.toNat && op.toNat ≤ 0x16)

/-- A command word is well-formed when its opcode, bits 15:8, is legal; every operand is admitted (R113). -/
def wordWellFormed (w : Word) : Bool :=
  legalOpcode (w.extractLsb' 8 8)

end Sys2Proof
end

