-- ==== Sys2Proof/Decode.lean ====
section
/-! DEFINITION. The decoder and the encoder of spec/30_encoding.md R110 to R113 and R124, and the host's view of the
decoder. Decoding is total: a word whose opcode no row has is rejected by the name `illegal` with that opcode (R115). -/

namespace Sys2Proof

/-- Bits 15:8 of a command word (R110). -/
def opcodeOf (w : Word) : Byte := w.extractLsb' 8 8

/-- Bits 7:0 of a command word (R110). -/
def operandOf (w : Word) : Byte := w.extractLsb' 0 8

/-- `w[15:8] ++ w[7:0]` (R13, R110). -/
def commandWord (opcode operand : Byte) : Word := opcode ++ operand

/-- `operand[0]`, the only operand bit of `RECV` and `RDCH` (R112). -/
def lowBit (operand : Byte) : Bit := operand.extractLsb' 0 1

/-- `operand[7:1]`, ignored by `RECV` and `RDCH` (R113). -/
def highBits (operand : Byte) : BitVec 7 := operand.extractLsb' 1 7

/-- What decoding answers. -/
inductive Decoded where
  | ok (i : Instr)
  /-- The opcode is none of the twelve: R115. -/
  | illegal (opcode : Byte)
  deriving DecidableEq, Repr

/-- The opcode map of R111, in the table's order; an opcode outside it is illegal (R115). -/
def decodeFields (opcode operand : Byte) : Decoded :=
  match opcode.toNat with
  | 0x01 => .ok (.start operand)
  | 0x02 => .ok (.restart operand)
  | 0x03 => .ok (.send operand)
  | 0x04 => .ok (.recv (highBits operand) (lowBit operand))
  | 0x05 => .ok (.stop operand)
  | 0x10 => .ok (.pwron operand)
  | 0x11 => .ok (.pwroff operand)
  | 0x12 => .ok (.settim operand)
  | 0x13 => .ok (.rdid operand)
  | 0x14 => .ok (.rdch (highBits operand) (lowBit operand))
  | 0x15 => .ok (.rdlux operand)
  | 0x16 => .ok (.init operand)
  | _ => .illegal opcode

/-- The decoder of a command word (R110, R124). -/
def decode (w : Word) : Decoded := decodeFields (opcodeOf w) (operandOf w)

/-- The opcode of an instruction (R111). -/
def Instr.opcode : Instr → Byte
  | .start _ => 0x01#8
  | .restart _ => 0x02#8
  | .send _ => 0x03#8
  | .recv _ _ => 0x04#8
  | .stop _ => 0x05#8
  | .pwron _ => 0x10#8
  | .pwroff _ => 0x11#8
  | .settim _ => 0x12#8
  | .rdid _ => 0x13#8
  | .rdch _ _ => 0x14#8
  | .rdlux _ => 0x15#8
  | .init _ => 0x16#8

/-- The operand byte of an instruction, the ignored bits included (R111 to R113). -/
def Instr.operand : Instr → Byte
  | .start x => x
  | .restart x => x
  | .send b => b
  | .recv u n => u ++ n
  | .stop x => x
  | .pwron x => x
  | .pwroff x => x
  | .settim v => v
  | .rdid x => x
  | .rdch u c => u ++ c
  | .rdlux x => x
  | .init x => x

/-- The command word of an instruction (R110). -/
def encode (i : Instr) : Word := commandWord i.opcode i.operand

/-- The host's view of the decoder: a row's bits, numbered from the least significant bit of the one 16-bit word.
The host port writes a command word whole (R71), so no byte order enters. -/
def decodeTableWord (nbits w : Nat) : Option Instr :=
  match decode (BitVec.ofNat 16 (w % 2 ^ nbits)) with
  | .ok i => some i
  | .illegal _ => none

end Sys2Proof
end

