-- ==== Sys2Proof/Config.lean ====
section
/-! DEFINITION. What an instance of the block fixes (spec/00_scope.md R11, R12), and the two values no rule gives:
the read data of a host access that reads and writes at once (R71), and the bus clock rate (R250). -/

namespace Sys2Proof

/-- The OPEN parameters of R11. R12: they are static, fixed when the block is instantiated; no command changes them.
A state carries them (log entry 6), so a statement about every state is a statement about every choice of them. -/
structure Config where
  /-- `DEV_ADDR`, the 7-bit address of the one target. -/
  devAddr : BitVec 7
  /-- `TIMING_DEFAULT`, what `INIT` writes to the timing register. -/
  timingDefault : Byte
  /-- `CH0_ZERO_IS_FAULT`, whether a zero broadband reading is a `SensorFault`. -/
  ch0ZeroIsFault : Bool
  deriving DecidableEq, Repr

/-- The defaults of R11. -/
def Config.standard : Config := { devAddr := 0x39#7, timingDefault := 0x02#8, ch0ZeroIsFault := true }

/-- R71: with `h_re` and `h_we` both 1, `h_rdata` is unspecified. A free value (log entry 7): the n-th such access
delivers `freeReadData n`, of which nothing can be proved. -/
opaque Config.freeReadData : Nat → Word

/-- R250: `SCL_HALF(I2CBRG)`, how many `clk` cycles `SCL` spends at each level. A free value (log entry 14); no rule
depends on it. -/
opaque Config.sclHalf : Word → Nat

end Sys2Proof
end

