-- ==== Sys2Proof/Machine/State.lean ====
section
/-! DEFINITION. The state of ALS-I2CM as plain data: every register of spec/10_state.md R20, the ports of
20_memory.md R71 and 60_exceptions.md R275 and R279, the ghost lists of 10_state.md R49, the static parameters of
00_scope.md R11, and the model's own fields (the control point inside a micro-step, the turns to come, a counter for
free values). `State.reset` is 10_state.md R50. -/

namespace Sys2Proof.Machine

/-- `I2CCON`, R25, by its fields; the reserved bits read 0, so they are no fields (log entry 16). -/
structure I2ccon where
  /-- Bit 15, the engine is enabled (R26). -/
  on : Bool
  /-- Bit 9, the slew-rate option, stored and without effect (R27). -/
  disslw : Bool
  /-- Bit 5, the acknowledgment bit the master will drive. -/
  ackdt : Bit
  /-- Bit 4, request: drive the acknowledgment bit. -/
  acken : Bool
  /-- Bit 3, request: receive one byte. -/
  rcen : Bool
  /-- Bit 2, request: stop condition. -/
  pen : Bool
  /-- Bit 1, request: repeated-start condition. -/
  rsen : Bool
  /-- Bit 0, request: start condition. -/
  sen : Bool
  deriving DecidableEq, Repr

/-- `I2CSTAT`, R29, by its fields. -/
structure I2cstat where
  /-- Bit 15, the acknowledgment bit the target returned for the last transmitted byte (R31). -/
  ackstat : Bit
  /-- Bit 14, a transmission is in progress (R30). -/
  trstat : Bool
  /-- Bit 1, `I2CRCV` holds a byte not yet read by the sequencer (R32). -/
  rbf : Bool
  deriving DecidableEq, Repr

/-- The refusal reason `SSTAT.ERRC`, R37. -/
inductive Errc where
  | none
  | illegalOpcode
  | engineDisabled
  | busState
  deriving DecidableEq, Repr

/-- `SSTAT.SESSION`, R47; the codes 5 to 7 are never taken (U11). -/
inductive Session where
  | uninitialized
  | poweringUp
  | idValidated
  | idInvalid
  | ready
  deriving DecidableEq, Repr

/-- `SSTAT`, R37, by its fields. -/
structure Sstat where
  busy : Bool
  owned : Bool
  noack : Bool
  sfault : Bool
  badid : Bool
  cmderr : Bool
  errc : Errc
  session : Session
  idwarn : Bool
  ovr : Bool
  deriving DecidableEq, Repr

/-- The bus events of R16. -/
inductive BusEvent where
  /-- `S`, a start condition. -/
  | start
  /-- `Sr`, a repeated start. -/
  | restart
  /-- `P`, a stop condition. -/
  | stop
  /-- `TX(b, a)`: the master sent `b`, the target answered `a`. -/
  | tx (b : Byte) (a : Bit)
  /-- `RXD(b)`: the master clocked in `b`. -/
  | rxd (b : Byte)
  /-- `MACK(n)`: the master drove `n` after a received byte. -/
  | mack (n : Bit)
  deriving DecidableEq, Repr

/-- The diagnostic events of R275, which are the three faults a micro-step raises (R261). -/
inductive Diag where
  /-- Code 1, `BusNoAck`. -/
  | noack
  /-- Code 2, `SensorFault`. -/
  | sfault
  /-- Code 3, `UnexpectedDeviceId`. -/
  | badid
  deriving DecidableEq, Repr

/-- The control point inside the current micro-step, which the `await`s of R140 to R148 and R279 imply (log entry 4). -/
inductive Phase where
  /-- The micro-step has not made its request yet. -/
  | request
  /-- The first request is made; the sequencer awaits its completion. -/
  | wait
  /-- `RECV` only: the acknowledgment is requested; the sequencer awaits its completion. -/
  | ackWait
  deriving DecidableEq, Repr

/-- What the environment supplies with one engine completion: the answers of the oracle (R76). An operation takes the
one it asks for and ignores the other. -/
structure Answer where
  /-- `TargetAck`. -/
  ack : Bit
  /-- `TargetByte`. -/
  byte : Byte
  deriving DecidableEq, Repr

/-- The inputs of the host port in one access, R71. -/
structure HostPort where
  re : Bool
  we : Bool
  addr : BitVec 4
  wdata : Word
  deriving DecidableEq, Repr

/-- One turn of one agent (R18). The schedule of a state lists the turns to come (log entry 1). -/
inductive Turn where
  /-- The host performs one access through its port. -/
  | host (p : HostPort)
  /-- The sequencer takes one step, or polls in vain. -/
  | sequencer
  /-- The environment completes the engine operation in flight, if there is one. -/
  | engine (x : Answer)
  /-- The delay collaborator drives `dly_done` to a level. -/
  | delayPin (level : Bool)
  /-- `rst` is 1 at one clock edge (R290). -/
  | reset
  deriving DecidableEq, Repr

/-- The state of the block. -/
structure State where
  /-- The static parameters (R11, R12). -/
  cfg : Config
  i2ccon : I2ccon
  i2cstat : I2cstat
  /-- `I2CBRG` (R33). -/
  i2cbrg : Word
  /-- `I2CTRN` (R34). -/
  i2ctrn : Byte
  /-- `I2CRCV` (R35). -/
  i2crcv : Byte
  /-- `CMD`, the last command word examined (R36). -/
  cmd : Word
  sstat : Sstat
  /-- `RESULT` (R39). -/
  result : Word
  /-- `CH0` (R39). -/
  ch0 : Word
  /-- `CH1` (R39). -/
  ch1 : Word
  /-- `LUX` (R39). -/
  lux : Word
  /-- `IDR` (R39). -/
  idr : Byte
  /-- `SEQ.op` (R40). -/
  seqOp : Byte
  /-- `SEQ.arg` (R40). -/
  seqArg : Byte
  /-- `SEQ.pc` (R40). -/
  seqPc : BitVec 5
  /-- `SEQ.lo` (R43). -/
  seqLo : Byte
  /-- The model's own: the control point inside micro-step `SEQ.pc`. -/
  seqPhase : Phase
  /-- Output `dly_req` (R279). -/
  dlyReq : Bool
  /-- Output `dly_ms` (R279). -/
  dlyMs : BitVec 10
  /-- Input `dly_done` as the collaborator drives it (R279). -/
  dlyDone : Bool
  /-- Outputs `diag_valid` and `diag_code` (R275): `none` while `diag_valid` is 0. -/
  diagPort : Option Diag
  /-- Output `h_rdata` as the last host read left it (R71). -/
  hRdata : Word
  /-- Ghost: the bus trace (R16). -/
  trace : List BusEvent
  /-- Ghost, the model's own: `I2CBRG` as it stood when each event of the bus trace was sent, in the trace's order; only
  the clock rate of the pin picture reads it (R250, log entry 22). -/
  divisors : List Word
  /-- Ghost: the diagnostic list (R275). -/
  diags : List Diag
  /-- Ghost: the delay-request list (R279). -/
  delays : List (BitVec 10)
  /-- The model's own: the turns still to come. -/
  schedule : List Turn
  /-- The model's own: how many free values have been drawn. -/
  freeCount : Nat
  deriving DecidableEq, Repr

/-- Why a step stops. The type has no constructor: nothing in the block is fatal (R260), a refused command is a next
state with `CMDERR` set (R116), and a hang is a state whose agents have no step (R304) (log entry 13). -/
inductive Fault where
  deriving DecidableEq, Repr

/-- Why an instruction has no meaning. -/
inductive Refusal where
  /-- Raised only by an arm of exec that has no meaning yet; safe, since the run stops. No arm raises it. -/
  | notModelled (mnemonic : String)
  deriving DecidableEq, Repr

/-- `I2CCON` = 0x0000 (R50). -/
def I2ccon.zero : I2ccon :=
  { on := false, disslw := false, ackdt := 0#1, acken := false, rcen := false, pen := false, rsen := false, sen := false }

/-- `I2CSTAT` = 0x0000 (R50). -/
def I2cstat.zero : I2cstat := { ackstat := 0#1, trstat := false, rbf := false }

/-- `SSTAT` = 0x0000 (R50). -/
def Sstat.zero : Sstat :=
  { busy := false, owned := false, noack := false, sfault := false, badid := false, cmderr := false, errc := .none
    session := .uninitialized, idwarn := false, ovr := false }

/-- The machine right after reset, R50 and R290, with the default parameters of R11 and no turn to come. -/
def State.reset : State :=
  { cfg := Config.standard
    i2ccon := I2ccon.zero
    i2cstat := I2cstat.zero
    i2cbrg := 0#16
    i2ctrn := 0#8
    i2crcv := 0#8
    cmd := 0#16
    sstat := Sstat.zero
    result := 0#16
    ch0 := 0#16
    ch1 := 0#16
    lux := 0#16
    idr := 0#8
    seqOp := 0#8
    seqArg := 0#8
    seqPc := 0#5
    seqLo := 0#8
    seqPhase := .request
    dlyReq := false
    dlyMs := 0#10
    dlyDone := false
    diagPort := none
    hRdata := 0#16
    trace := []
    divisors := []
    diags := []
    delays := []
    schedule := []
    freeCount := 0 }

end Sys2Proof.Machine
end

