-- ==== Sys2Proof/Machine/Flags.lean ====
section
/-! DEFINITION. The word views of the flag registers (spec/10_state.md R25, R29, R37, R47; 60_exceptions.md R275) and
the engine activity computed from the request bits (R48). -/

namespace Sys2Proof.Machine

/-- `I2CCON` as the host reads it, R25: ON 15, DISSLW 9, ACKDT 5, ACKEN 4, RCEN 3, PEN 2, RSEN 1, SEN 0. -/
def I2ccon.toWord (c : I2ccon) : Word :=
  BitVec.ofBool c.on ++ 0#5 ++ BitVec.ofBool c.disslw ++ 0#3 ++ c.ackdt ++ BitVec.ofBool c.acken ++
    BitVec.ofBool c.rcen ++ BitVec.ofBool c.pen ++ BitVec.ofBool c.rsen ++ BitVec.ofBool c.sen

/-- `I2CSTAT` as the host reads it, R29: ACKSTAT 15, TRSTAT 14, RBF 1. -/
def I2cstat.toWord (c : I2cstat) : Word :=
  c.ackstat ++ BitVec.ofBool c.trstat ++ 0#12 ++ BitVec.ofBool c.rbf ++ 0#1

/-- The code of `SSTAT.ERRC`, R37. -/
def Errc.code : Errc → BitVec 2
  | .none => 0#2
  | .illegalOpcode => 1#2
  | .engineDisabled => 2#2
  | .busState => 3#2

/-- The code of `SSTAT.SESSION`, R47. -/
def Session.code : Session → BitVec 3
  | .uninitialized => 0#3
  | .poweringUp => 1#3
  | .idValidated => 2#3
  | .idInvalid => 3#3
  | .ready => 4#3

/-- `SSTAT` as the host reads it, R37. -/
def Sstat.toWord (c : Sstat) : Word :=
  0#3 ++ BitVec.ofBool c.ovr ++ BitVec.ofBool c.idwarn ++ c.session.code ++ c.errc.code ++ BitVec.ofBool c.cmderr ++
    BitVec.ofBool c.badid ++ BitVec.ofBool c.sfault ++ BitVec.ofBool c.noack ++ BitVec.ofBool c.owned ++
    BitVec.ofBool c.busy

/-- `diag_code`, R275. -/
def Diag.code : Diag → BitVec 2
  | .noack => 1#2
  | .sfault => 2#2
  | .badid => 3#2

/-- `ENG.act`, R48(a). -/
inductive EngAct where
  | idle
  | start
  | restart
  | stop
  | tx
  | rx
  | ack
  deriving DecidableEq, Repr

/-- Every operation a request bit or `TRSTAT` asks for (R28, R48). -/
def State.pending (s : State) : List EngAct :=
  (if s.i2ccon.sen then [.start] else []) ++ (if s.i2ccon.rsen then [.restart] else []) ++
    (if s.i2ccon.pen then [.stop] else []) ++ (if s.i2cstat.trstat then [.tx] else []) ++
    (if s.i2ccon.rcen then [.rx] else []) ++ (if s.i2ccon.acken then [.ack] else [])

/-- `ENG.act`, R48(a). It has no value when two requests are pending, which no rule defines (U4). -/
def State.engAct (s : State) : Option EngAct :=
  match s.pending with
  | [] => some .idle
  | [a] => some a
  | _ => none

end Sys2Proof.Machine
end

