-- ==== Sys2Proof/Machine/Operands.lean ====
section
/-! DEFINITION. The operand forms: the wire constants of spec/20_memory.md R85, the address and command bytes of
30_encoding.md R100 and R101, the channel operand of `RDCH` (R112), and the assembly of a raw reading (R78, R103). -/

namespace Sys2Proof.Machine

/-- `AW = (DEV_ADDR << 1) | 0`, R100. -/
def addressWrite (c : Config) : Byte := c.devAddr ++ 0#1

/-- `AR = (DEV_ADDR << 1) | 1`, R100. -/
def addressRead (c : Config) : Byte := c.devAddr ++ 1#1

/-- Command byte `0x80 | registerIndex`, R101. -/
def commandByte (reg : BitVec 4) : Byte := 0x80#8 ||| reg.zeroExtend 8

/-- Target register indices, R73. -/
def regControl : BitVec 4 := 0x0#4
def regTiming : BitVec 4 := 0x1#4
def regId : BitVec 4 := 0xA#4
def regData0Low : BitVec 4 := 0xC#4
def regData1Low : BitVec 4 := 0xE#4

/-- `POWER_ON_VALUE`, R102. -/
def powerOnValue : Byte := 0x03#8

/-- `POWER_OFF_VALUE`, R102: the spec's own choice D5, from general knowledge (log entry 17). -/
def powerOffValue : Byte := 0x00#8

/-- `DELAY_POWERUP_MS`, R228. -/
def delayPowerupMs : BitVec 10 := 200#10

/-- `DELAY_INTEG_MS`, R228. -/
def delayIntegMs : BitVec 10 := 500#10

/-- The saturation sentinel `SAT`, R11. -/
def saturated : Word := 0xFFFF#16

/-- R104: the ID bytes of the two known revisions, compared on all eight bits. -/
def idExpected (b : Byte) : Bool := b == 0x10#8 || b == 0x50#8

/-- The two raw channels. -/
inductive Channel where
  | ch0
  | ch1
  deriving DecidableEq, Repr

/-- `operand[0]` of `RDCH`: 0 is CH0, 1 is CH1 (R112). -/
def channelOf (c : Bit) : Channel := if c = 0#1 then .ch0 else .ch1

/-- `lowReg = 0x0C + 2*operand[0]`, R112. -/
def lowReg : Channel → BitVec 4
  | .ch0 => regData0Low
  | .ch1 => regData1Low

/-- R103: `value = high*256 + low = high ++ low`, the low byte received first. -/
def assemble (high low : Byte) : Word := high ++ low

/-- `CHc`. -/
def State.channel (s : State) : Channel → Word
  | .ch0 => s.ch0
  | .ch1 => s.ch1

end Sys2Proof.Machine
end

