-- ==== Sys2Proof/Machine/Lux.lean ====
section
/-! DEFINITION. The lux converter `LUXCONV` in the exact integers of spec/42_lux.md R195 and R199 to R202. -/

namespace Sys2Proof.Machine

/-- The branch conditions of R199, tested in this order, for `ch0 > 0`. -/
inductive LuxBranch where
  | b1
  | b2
  | b3
  | b4
  | b5
  deriving DecidableEq, Repr

/-- R199: branch selection without division. -/
def luxBranch (ch0 ch1 : Nat) : LuxBranch :=
  if 2 * ch1 ≤ ch0 then .b1
  else if 100 * ch1 ≤ 61 * ch0 then .b2
  else if 5 * ch1 ≤ 4 * ch0 then .b3
  else if 10 * ch1 ≤ 13 * ch0 then .b4
  else .b5

/-- R201: `A(n) = 304·ch0 − 10000·n ≥ 0` and `620^5 · ch1^7 ≤ A(n)^5 · ch0^2`. -/
def luxFits (ch0 ch1 n : Nat) : Bool :=
  decide (10000 * n ≤ 304 * ch0) && decide (620 ^ 5 * ch1 ^ 7 ≤ (304 * ch0 - 10000 * n) ^ 5 * ch0 ^ 2)

/-- R201: the search downward, ending at 0, which always qualifies. -/
def luxSearch (ch0 ch1 : Nat) : Nat → Nat
  | 0 => 0
  | n + 1 => if luxFits ch0 ch1 (n + 1) then n + 1 else luxSearch ch0 ch1 n

/-- R200 and R201: the lux value of an admitted pair with `ch0 > 0`. -/
def luxValue (ch0 ch1 : Nat) : Nat :=
  match luxBranch ch0 ch1 with
  | .b1 => luxSearch ch0 ch1 (304 * ch0 / 10000)
  | .b2 => (224 * ch0 - 310 * ch1) / 10000
  | .b3 => (128 * ch0 - 153 * ch1) / 10000
  | .b4 => (146 * ch0 - 112 * ch1) / 100000
  | .b5 => 0

/-- `LUXCONV(ch0, ch1) -> (lux, fault)`, R195; the third line is R202. -/
def luxconv (ch0ZeroIsFault : Bool) (ch0 ch1 : Word) : Nat × Bool :=
  if ch0 = 0#16 ∧ ch0ZeroIsFault = true then (0, true)
  else if ch0 = saturated ∨ ch1 = saturated then (0, true)
  else if ch0 = 0#16 then (0, false)
  else (luxValue ch0.toNat ch1.toNat, false)

end Sys2Proof.Machine
end

