-- ==== Sys2Proof/Machine/Ops.lean ====
section
/-! DEFINITION. The named operations on the state: emitting an event, raising a fault, examining, refusing, accepting
and losing a command word, the requests and completions of the bus engine, the register transfers of the micro-steps,
the host port's reads and writes, and reset. Each follows one rule of spec/ and is one record update. -/

namespace Sys2Proof.Machine

/-- `emit(ev)`, R15; beside the event the model notes the divisor in force (R250, log entry 22). -/
def State.emit (s : State) (e : BusEvent) : State :=
  { s with trace := s.trace ++ [e], divisors := s.divisors ++ [s.i2cbrg] }

/-! Taking a fault (R268): the flag is set and one diagnostic goes out; control does not transfer, nothing is saved, and
there is nothing to return from (R270, R271). -/

/-- The `SSTAT` flag a fault sets, R261. -/
def Sstat.setFlag (c : Sstat) : Diag → Sstat
  | .noack => { c with noack := true }
  | .sfault => { c with sfault := true }
  | .badid => { c with badid := true }

/-- `raise F`, R268: the flag, the diagnostic list and the diagnostic port (R275). -/
def State.raise (s : State) (d : Diag) : State :=
  { s with sstat := s.sstat.setFlag d, diags := s.diags ++ [d], diagPort := some d }

/-! Command words (R114, R116, R300). -/

/-- R36, R300: a word written while `BUSY = 1` is lost and sets `OVR`; nothing else changes. -/
def State.overrun (s : State) : State := { s with sstat := { s.sstat with ovr := true } }

/-- R114, before the tests: `CMD <- w` and the per-command flags cleared (R38). -/
def State.examine (s : State) (w : Word) : State :=
  { s with
    cmd := w
    sstat :=
      { s.sstat with noack := false, sfault := false, badid := false, cmderr := false, errc := .none } }

/-- `refuse(c)`, R116. -/
def State.refuse (s : State) (c : Errc) : State :=
  { s with sstat := { s.sstat with cmderr := true, errc := c }, result := 0#16 }

/-- `accept`, R41 and R114; the new command's first micro-step has made no request. -/
def State.accept (s : State) (opcode operand : Byte) : State :=
  { s with
    seqOp := opcode
    seqArg := operand
    seqPc := 0#5
    seqPhase := .request
    sstat := { s.sstat with busy := true } }

/-! Requests to the bus engine (R130, R132 to R137); each leaves the sequencer awaiting completion. -/

/-- `I2CCON.SEN <- 1`, R132. -/
def State.requestStart (s : State) : State := { s with i2ccon := { s.i2ccon with sen := true }, seqPhase := .wait }

/-- `I2CCON.RSEN <- 1`, R133. -/
def State.requestRestart (s : State) : State := { s with i2ccon := { s.i2ccon with rsen := true }, seqPhase := .wait }

/-- `I2CCON.PEN <- 1`, R134. -/
def State.requestStop (s : State) : State := { s with i2ccon := { s.i2ccon with pen := true }, seqPhase := .wait }

/-- `I2CTRN <- b` and in the same step `TRSTAT <- 1`, R135. -/
def State.requestSend (s : State) (b : Byte) : State :=
  { s with i2ctrn := b, i2cstat := { s.i2cstat with trstat := true }, seqPhase := .wait }

/-- `I2CCON.RCEN <- 1`, R136. -/
def State.requestReceive (s : State) : State := { s with i2ccon := { s.i2ccon with rcen := true }, seqPhase := .wait }

/-- R146: the sequencer reads `I2CRCV`, which clears `RBF`, then `ACKDT <- n` and `ACKEN <- 1`. -/
def State.requestAck (s : State) (n : Bit) : State :=
  { s with
    i2cstat := { s.i2cstat with rbf := false }
    i2ccon := { s.i2ccon with ackdt := n, acken := true }
    seqPhase := .ackWait }

/-- R279: `dly_ms <- ms`, `dly_req <- 1`, and `ms` joins the delay-request list. -/
def State.requestDelay (s : State) (ms : BitVec 10) : State :=
  { s with dlyMs := ms, dlyReq := true, delays := s.delays ++ [ms], seqPhase := .wait }

/-! Completion steps of the bus engine (R130, R132 to R137): one event, the status, the request cleared, all at once. -/

/-- R132. -/
def State.completeStart (s : State) : State :=
  { s.emit .start with
    i2ccon := { s.i2ccon with sen := false }
    sstat := { s.sstat with owned := true } }

/-- R133. -/
def State.completeRestart (s : State) : State :=
  { s.emit .restart with i2ccon := { s.i2ccon with rsen := false } }

/-- R134. -/
def State.completeStop (s : State) : State :=
  { s.emit .stop with
    i2ccon := { s.i2ccon with pen := false }
    sstat := { s.sstat with owned := false } }

/-- R135: the target's bit `a` goes to the trace and to `ACKSTAT`. -/
def State.completeSend (s : State) (a : Bit) : State :=
  { s.emit (.tx s.i2ctrn a) with i2cstat := { s.i2cstat with ackstat := a, trstat := false } }

/-- R136: the target's byte `b` goes to the trace and to `I2CRCV`. -/
def State.completeReceive (s : State) (b : Byte) : State :=
  { s.emit (.rxd b) with
    i2crcv := b
    i2cstat := { s.i2cstat with rbf := true }
    i2ccon := { s.i2ccon with rcen := false } }

/-- R137. -/
def State.completeAck (s : State) : State :=
  { s.emit (.mack s.i2ccon.ackdt) with i2ccon := { s.i2ccon with acken := false } }

/-! Register transfers of the sequencer. -/

/-- R41: a completed micro-step advances `SEQ.pc`. -/
def State.advance (s : State) : State := { s with seqPc := s.seqPc + 1#5, seqPhase := .request }

/-- Where `RECV` puts the received byte (R42). -/
inductive RecvDst where
  /-- The byte stays in `I2CRCV`. -/
  | none
  /-- `SEQ.lo`, R43. -/
  | seqLo
  /-- `IDR`, R178 and R222. -/
  | idr
  deriving DecidableEq, Repr

/-- `RECV n -> d`: the received byte, which `I2CRCV` still holds (R35), goes to `d`. -/
def State.storeReceived (s : State) : RecvDst → State
  | .none => s
  | .seqLo => { s with seqLo := s.i2crcv }
  | .idr => { s with idr := s.i2crcv }

/-- `dly_req <- 0`, R279. -/
def State.endDelay (s : State) : State := { s with dlyReq := false }

/-- `LATCH CHc <- I2CRCV ++ SEQ.lo`, R179. -/
def State.latch (s : State) : Channel → State
  | .ch0 => { s with ch0 := assemble s.i2crcv s.seqLo }
  | .ch1 => { s with ch1 := assemble s.i2crcv s.seqLo }

/-- `CHECKID`, R181. -/
def State.checkId (s : State) : State := if idExpected s.idr then s else s.raise .badid

/-- The `LUX` transfer of `CONV`, R194. -/
def State.storeLux (s : State) (l : Nat) : State := { s with lux := BitVec.ofNat 16 l }

/-- `CONV`, R194. -/
def State.conv (s : State) : State :=
  let r := luxconv s.cfg.ch0ZeroIsFault s.ch0 s.ch1
  if r.2 then (s.storeLux r.1).raise .sfault else s.storeLux r.1

/-- `SESSION s`, R224, with the `IDWARN` transfer that stands beside it in the micro-program. -/
def State.setSession (s : State) (x : Session) (idwarn : Bool) : State :=
  { s with sstat := { s.sstat with session := x, idwarn := idwarn } }

/-- `DONE v`, R44. -/
def State.done (s : State) (v : Word) : State :=
  { s with result := v, sstat := { s.sstat with busy := false }, seqPc := 0#5, seqPhase := .request }

/-! Turns. -/

/-- The schedule moves on, and the diagnostic pulse of the turn before ends (R275, log entry 10). -/
def State.nextTurn (s : State) (rest : List Turn) : State := { s with schedule := rest, diagPort := none }

/-- The delay collaborator drives `dly_done` (R279). -/
def State.setDlyDone (s : State) (level : Bool) : State := { s with dlyDone := level }

/-! The host port (R71). -/

/-- A read of host register `r`, R21 and R22. -/
def State.readReg (s : State) (r : BitVec 4) : Word :=
  match r.toNat with
  | 0 => s.i2ccon.toWord
  | 1 => s.i2cstat.toWord
  | 2 => s.i2cbrg
  | 3 => s.i2ctrn.zeroExtend 16
  | 4 => s.i2crcv.zeroExtend 16
  | 5 => s.cmd
  | 6 => s.sstat.toWord
  | 7 => s.result
  | 8 => s.ch0
  | 9 => s.ch1
  | 10 => s.lux
  | 11 => s.idr.zeroExtend 16
  | _ => 0#16

/-- `h_rdata` takes a value. -/
def State.setReadData (s : State) (v : Word) : State := { s with hRdata := v }

/-- A free value is drawn for `h_rdata` (R71, log entry 7). -/
def State.freeRead (s : State) : State :=
  { s with hRdata := Config.freeReadData s.freeCount, freeCount := s.freeCount + 1 }

/-- The read side of one access, R71 and R23: with `h_re` alone the register, with `h_we` too an unspecified word. -/
def State.hostRead (s : State) (p : HostPort) : State :=
  if p.re then (if p.we then s.freeRead else s.setReadData (s.readReg p.addr)) else s

/-- R24: `ON` and `DISSLW` take bits 15 and 9; the other bits written are discarded. -/
def State.writeCon (s : State) (v : Word) : State :=
  { s with i2ccon := { s.i2ccon with on := v.getLsbD 15, disslw := v.getLsbD 9 } }

/-- `I2CBRG <- v`, R33. -/
def State.writeBrg (s : State) (v : Word) : State := { s with i2cbrg := v }

/-- The host may configure the engine, R24. -/
def State.configurable (s : State) : Bool := !s.sstat.busy && !s.sstat.owned

/-- A host write of a register other than `CMD`, R21, R22 and R24: `I2CCON` and `I2CBRG` while the host may configure,
every other number changes nothing. -/
def State.hostWrite (s : State) (r : BitVec 4) (v : Word) : State :=
  if s.configurable then
    match r.toNat with
    | 0 => s.writeCon v
    | 2 => s.writeBrg v
    | _ => s
  else s

/-- The number of `CMD`, R21. -/
def cmdReg : BitVec 4 := 5#4

/-- Reset, R290 and R291, in any state: every register and port output takes its value of R50, the ghost lists start
afresh, no event is emitted. The parameters are static (R12); `dly_done` and the turns to come are not the block's. -/
def State.resetBlock (s : State) : State :=
  { State.reset with cfg := s.cfg, dlyDone := s.dlyDone, schedule := s.schedule, freeCount := s.freeCount }

end Sys2Proof.Machine
end

