-- ==== Sys2Proof/Machine/Engine.lean ====
section
/-! DEFINITION. The bus engine, spec/40_bus_primitives.md R130 to R139: the completion step of the operation in
flight, taken when the environment gives the engine a turn. -/

namespace Sys2Proof.Machine

/-- The completion step of each activity, R132 to R137, with the oracle's answers `x` (R76). -/
def State.complete (s : State) (x : Answer) : EngAct → State
  | .idle => s
  | .start => s.completeStart
  | .restart => s.completeRestart
  | .stop => s.completeStop
  | .tx => s.completeSend x.ack
  | .rx => s.completeReceive x.byte
  | .ack => s.completeAck

/-- A turn of the engine. R26: disabled, it performs no operation. With two requests pending it takes no step, the
safe reading of U4; such a state is unreachable (log entry 11). -/
def engineTurn (x : Answer) (s : State) : State :=
  if s.i2ccon.on then
    match s.engAct with
    | some a => s.complete x a
    | none => s
  else s

end Sys2Proof.Machine
end

