-- ==== Sys2Proof/Machine/MicroStep.lean ====
section
/-! DEFINITION. The micro-step alphabet of spec/10_state.md R42 and what one turn of the sequencer does in each
micro-step: the five primitives of 40_bus_primitives.md R140 to R148, `DELAY` (60_exceptions.md R279), `LATCH`,
`CHECKID`, `CONV`, `SESSION` and `DONE`. A turn that finds its `await` unfulfilled polls and changes nothing (R230). -/

namespace Sys2Proof.Machine

/-- The value `DONE` writes to `RESULT`. -/
inductive ResultSrc where
  /-- 0. -/
  | zero
  /-- `zext_16(I2CSTAT.ACKSTAT)`, R153. -/
  | ackstat
  /-- `zext_16(I2CRCV)`, R154. -/
  | i2crcv
  /-- `zext_16(IDR)`, R178 and R222. -/
  | idr
  /-- `CHc`, R179. -/
  | channel (c : Channel)
  /-- `LUX`, R192. -/
  | lux
  deriving DecidableEq, Repr

/-- R42. -/
inductive MicroStep where
  | start
  | restart
  | send (b : Byte)
  | recv (n : Bit) (d : RecvDst)
  | stop
  | delay (ms : BitVec 10)
  | latch (c : Channel)
  | checkId
  | conv
  /-- `SESSION x ; SSTAT.IDWARN <- 0`: `PWROFF` step 5 (R176), `INIT` step 0 (R222). -/
  | sessionClear (x : Session)
  /-- `INIT` step 15 (R222): the session and `IDWARN` from `SSTAT.BADID`. -/
  | sessionFromId
  /-- `INIT` step 22 (R222): `SESSION Ready`, `IDWARN` kept. -/
  | sessionReady
  | done (v : ResultSrc)
  deriving DecidableEq, Repr

/-- The value a `DONE` names, zero-extended (R44). -/
def State.resultOf (s : State) : ResultSrc → Word
  | .zero => 0#16
  | .ackstat => s.i2cstat.ackstat.zeroExtend 16
  | .i2crcv => s.i2crcv.zeroExtend 16
  | .idr => s.idr.zeroExtend 16
  | .channel c => s.channel c
  | .lux => s.lux

/-- `start()`, R140. -/
def startPrimitive (s : State) : State :=
  match s.seqPhase with
  | .request => s.requestStart
  | _ => if s.i2ccon.sen then s else s.advance

/-- `restart()`, R141. -/
def restartPrimitive (s : State) : State :=
  match s.seqPhase with
  | .request => s.requestRestart
  | _ => if s.i2ccon.rsen then s else s.advance

/-- `sendByte(b)`, R142: a missing acknowledgment raises `BusNoAck` and the micro-program goes on. -/
def sendPrimitive (b : Byte) (s : State) : State :=
  match s.seqPhase with
  | .request => s.requestSend b
  | _ =>
    if s.i2cstat.trstat then s
    else if s.i2cstat.ackstat = 1#1 then (s.raise .noack).advance
    else s.advance

/-- `recvByte(n)`, R146; the byte goes to `d` when the primitive returns (log entry 5). -/
def recvPrimitive (n : Bit) (d : RecvDst) (s : State) : State :=
  match s.seqPhase with
  | .request => s.requestReceive
  | .wait => if s.i2cstat.rbf then s.requestAck n else s
  | .ackWait => if s.i2ccon.acken then s else (s.storeReceived d).advance

/-- `stop()`, R148. -/
def stopPrimitive (s : State) : State :=
  match s.seqPhase with
  | .request => s.requestStop
  | _ => if s.i2ccon.pen then s else s.advance

/-- `DELAY ms`, R279. -/
def delayPrimitive (ms : BitVec 10) (s : State) : State :=
  match s.seqPhase with
  | .request => s.requestDelay ms
  | _ => if s.dlyDone then s.endDelay.advance else s

/-- The session code `INIT` step 15 picks, R222. -/
def sessionFromBadid (badid : Bool) : Session := if badid then .idInvalid else .idValidated

/-- One sequencer turn in micro-step `m`. -/
def microTurn (m : MicroStep) (s : State) : State :=
  match m with
  | .start => startPrimitive s
  | .restart => restartPrimitive s
  | .send b => sendPrimitive b s
  | .recv n d => recvPrimitive n d s
  | .stop => stopPrimitive s
  | .delay ms => delayPrimitive ms s
  | .latch c => (s.latch c).advance
  | .checkId => s.checkId.advance
  | .conv => s.conv.advance
  | .sessionClear x => (s.setSession x false).advance
  | .sessionFromId => (s.setSession (sessionFromBadid s.sstat.badid) s.sstat.badid).advance
  | .sessionReady => (s.setSession .ready s.sstat.idwarn).advance
  | .done v => s.done (s.resultOf v)

end Sys2Proof.Machine
end

