-- ==== Sys2Proof/Machine/Sequencer.lean ====
section
/-! DEFINITION. The sequencer, spec/10_state.md R40 to R44: a turn of the sequencer in a micro-program, the turns of a
running command, the examination of a command word (30_encoding.md R114), and the transaction shapes of
41_sensor_register_ops.md R172 to R174. -/

namespace Sys2Proof.Machine

/-- One turn of the sequencer in the micro-program `prog`: micro-step `SEQ.pc` while `BUSY = 1`, no step otherwise
(R41, R44). An index beyond the program is unreachable and has no step (log entry 11). -/
def sequencerTurn (prog : List MicroStep) (s : State) : State :=
  if s.sstat.busy then
    match prog[s.seqPc.toNat]? with
    | some m => microTurn m s
    | none => s
  else s

/-- The turns that belong to the block and its environment, not to the host port or `rst`. -/
def Turn.isBlock : Turn → Bool
  | .sequencer => true
  | .engine _ => true
  | .delayPin _ => true
  | .host _ => false
  | .reset => false

/-- What a turn of the block or its environment does while `prog` is the micro-program in progress. -/
def blockTurn (prog : List MicroStep) (t : Turn) (s : State) : State :=
  match t with
  | .sequencer => sequencerTurn prog s
  | .engine x => engineTurn x s
  | .delayPin level => s.setDlyDone level
  | .host _ => s
  | .reset => s

/-- The turns of a running command (log entry 2): until `DONE`, or the host or `rst` takes its turn, or no turn is
left, in which case the command hangs with `BUSY = 1` (R304). -/
def runTurns (prog : List MicroStep) : List Turn → State → State
  | [], s => s
  | t :: ts, s =>
    if s.sstat.busy && t.isBlock then runTurns prog ts (blockTurn prog t (s.nextTurn ts)) else s

/-- A command just accepted takes the turns that are its own. -/
def runCommand (prog : List MicroStep) (s : State) : State := runTurns prog s.schedule s

/-- The host writes the word of a legal command to `CMD`: R114, with the tests in the order of R117. `violation` is
R119's condition for this command. -/
def issue (i : Instr) (violation : Bool) (prog : List MicroStep) (s : State) :
    Host.Outcome State Fault Refusal :=
  if s.sstat.busy then .next s.overrun
  else if s.i2ccon.on = false then .next ((s.examine (encode i)).refuse .engineDisabled)
  else if violation then .next ((s.examine (encode i)).refuse .busState)
  else .next (runCommand prog ((s.examine (encode i)).accept i.opcode i.operand))

/-- The host writes a word with an illegal opcode to `CMD`: R114, R115. -/
def issueIllegal (w : Word) (s : State) : State :=
  if s.sstat.busy then s.overrun else (s.examine w).refuse .illegalOpcode

/-- R119 for the sensor commands and `START`: the bus must be free. -/
def needsFreeBus (s : State) : Bool := s.sstat.owned

/-- R119 for `RESTART`, `SEND`, `RECV`, `STOP`: the bus must be held. -/
def needsHeldBus (s : State) : Bool := !s.sstat.owned

/-- `MemWrite(r, 1, v)`, R172. -/
def memWrite (c : Config) (reg : BitVec 4) (v : Byte) : List MicroStep :=
  [.start, .send (addressWrite c), .send (commandByte reg), .send v, .stop]

/-- `MemRead(r, 1)`, R173. -/
def memReadOne (c : Config) (reg : BitVec 4) (d : RecvDst) : List MicroStep :=
  [.start, .send (addressWrite c), .send (commandByte reg), .restart, .send (addressRead c), .recv 1#1 d, .stop]

/-- `MemRead(r, 2)` with its `LATCH`, R174 and R179: the low byte ACKed, the high byte NACKed. -/
def memReadTwo (c : Config) (ch : Channel) : List MicroStep :=
  [.start, .send (addressWrite c), .send (commandByte (lowReg ch)), .restart, .send (addressRead c),
    .recv 0#1 .seqLo, .recv 1#1 .none, .stop, .latch ch]

end Sys2Proof.Machine
end

