-- ==== Sys2Proof/Machine/Init.lean ====
section
/-! DEFINITION. `INIT`, spec/43_initialize.md R222: power on, settle, check the ID, write the timing register, wait. -/

namespace Sys2Proof.Machine

/-- R222, the twenty-four steps. -/
def initProgram (c : Config) : List MicroStep :=
  [.sessionClear .poweringUp] ++ memWrite c regControl powerOnValue ++ [.delay delayPowerupMs] ++
    memReadOne c regId .idr ++ [.checkId, .sessionFromId] ++ memWrite c regTiming c.timingDefault ++
    [.delay delayIntegMs, .sessionReady, .done .idr]

/-- `INIT`, R222. -/
def execInit (operand : Byte) (s : State) : Host.Outcome State Fault Refusal :=
  issue (.init operand) (needsFreeBus s) (initProgram s.cfg) s

end Sys2Proof.Machine
end

