-- ==== Sys2Proof/Machine/Raw.lean ====
section
/-! DEFINITION. The five raw commands of spec/40_bus_primitives.md R150 to R155: their micro-programs and meanings. -/

namespace Sys2Proof.Machine

/-- R150, column `START`. -/
def startProgram : List MicroStep := [.start, .done .zero]

/-- `START`, R151. -/
def execStart (operand : Byte) (s : State) : Host.Outcome State Fault Refusal :=
  issue (.start operand) (needsFreeBus s) startProgram s

/-- R150, column `RESTART`. -/
def restartProgram : List MicroStep := [.restart, .done .zero]

/-- `RESTART`, R152. -/
def execRestart (operand : Byte) (s : State) : Host.Outcome State Fault Refusal :=
  issue (.restart operand) (needsHeldBus s) restartProgram s

/-- R150, column `SEND`. -/
def sendProgram (b : Byte) : List MicroStep := [.send b, .done .ackstat]

/-- `SEND b`, R153. -/
def execSend (b : Byte) (s : State) : Host.Outcome State Fault Refusal :=
  issue (.send b) (needsHeldBus s) (sendProgram b) s

/-- R150, column `RECV`. -/
def recvProgram (n : Bit) : List MicroStep := [.recv n .none, .done .i2crcv]

/-- `RECV n`, R154. -/
def execRecv (unused : BitVec 7) (n : Bit) (s : State) : Host.Outcome State Fault Refusal :=
  issue (.recv unused n) (needsHeldBus s) (recvProgram n) s

/-- R150, column `STOP`. -/
def stopProgram : List MicroStep := [.stop, .done .zero]

/-- `STOP`, R155. -/
def execStop (operand : Byte) (s : State) : Host.Outcome State Fault Refusal :=
  issue (.stop operand) (needsHeldBus s) stopProgram s

end Sys2Proof.Machine
end

