-- ==== Sys2Proof/Machine/Rdlux.lean ====
section
/-! DEFINITION. `RDLUX`, spec/42_lux.md R192: both channels, then `CONV`. -/

namespace Sys2Proof.Machine

/-- R192: CH0 first, CH1 second, both always read. -/
def rdluxProgram (c : Config) : List MicroStep := memReadTwo c .ch0 ++ memReadTwo c .ch1 ++ [.conv, .done .lux]

/-- `RDLUX`, R192. -/
def execRdlux (operand : Byte) (s : State) : Host.Outcome State Fault Refusal :=
  issue (.rdlux operand) (needsFreeBus s) (rdluxProgram s.cfg) s

end Sys2Proof.Machine
end

