-- ==== Sys2Proof/Machine/Sensor.lean ====
section
/-! DEFINITION. The sensor register commands of spec/41_sensor_register_ops.md R175 to R179: their micro-programs and
meanings. -/

namespace Sys2Proof.Machine

/-- R175. -/
def pwronProgram (c : Config) : List MicroStep := memWrite c regControl powerOnValue ++ [.done .zero]

/-- `PWRON`, R175. -/
def execPwron (operand : Byte) (s : State) : Host.Outcome State Fault Refusal :=
  issue (.pwron operand) (needsFreeBus s) (pwronProgram s.cfg) s

/-- R176. -/
def pwroffProgram (c : Config) : List MicroStep :=
  memWrite c regControl powerOffValue ++ [.sessionClear .uninitialized, .done .zero]

/-- `PWROFF`, R176. -/
def execPwroff (operand : Byte) (s : State) : Host.Outcome State Fault Refusal :=
  issue (.pwroff operand) (needsFreeBus s) (pwroffProgram s.cfg) s

/-- R177. -/
def settimProgram (c : Config) (v : Byte) : List MicroStep := memWrite c regTiming v ++ [.done .zero]

/-- `SETTIM v`, R177. -/
def execSettim (v : Byte) (s : State) : Host.Outcome State Fault Refusal :=
  issue (.settim v) (needsFreeBus s) (settimProgram s.cfg v) s

/-- R178. -/
def rdidProgram (c : Config) : List MicroStep := memReadOne c regId .idr ++ [.checkId, .done .idr]

/-- `RDID`, R178. -/
def execRdid (operand : Byte) (s : State) : Host.Outcome State Fault Refusal :=
  issue (.rdid operand) (needsFreeBus s) (rdidProgram s.cfg) s

/-- R179. -/
def rdchProgram (c : Config) (ch : Channel) : List MicroStep := memReadTwo c ch ++ [.done (.channel ch)]

/-- `RDCH c`, R179. -/
def execRdch (unused : BitVec 7) (c : Bit) (s : State) : Host.Outcome State Fault Refusal :=
  issue (.rdch unused c) (needsFreeBus s) (rdchProgram s.cfg (channelOf c)) s

end Sys2Proof.Machine
end

