-- ==== Sys2Proof/Machine/Dispatch.lean ====
section
/-! DEFINITION. The meaning of each command word's issue, one arm per constructor of `Instr`. -/

namespace Sys2Proof.Machine

def exec (i : Instr) (s : State) : Host.Outcome State Fault Refusal :=
  match i with
  | .start operand => Sys2Proof.Machine.execStart operand s
  | .restart operand => Sys2Proof.Machine.execRestart operand s
  | .send b => Sys2Proof.Machine.execSend b s
  | .recv unused n => Sys2Proof.Machine.execRecv unused n s
  | .stop operand => Sys2Proof.Machine.execStop operand s
  | .pwron operand => Sys2Proof.Machine.execPwron operand s
  | .pwroff operand => Sys2Proof.Machine.execPwroff operand s
  | .settim v => Sys2Proof.Machine.execSettim v s
  | .rdid operand => Sys2Proof.Machine.execRdid operand s
  | .rdch unused c => Sys2Proof.Machine.execRdch unused c s
  | .rdlux operand => Sys2Proof.Machine.execRdlux operand s
  | .init operand => Sys2Proof.Machine.execInit operand s

end Sys2Proof.Machine
end

