-- ==== Sys2Proof/Machine/Programs.lean ====
section
/-! DEFINITION. The micro-program of the command in progress, found through `SEQ.op` and `SEQ.arg` (spec/10_state.md
R40), for the turns taken one at a time after a host access cut into a running command. -/

namespace Sys2Proof.Machine

/-- The micro-program of each command (R40). -/
def programOf (c : Config) : Instr → List MicroStep
  | .start _ => startProgram
  | .restart _ => restartProgram
  | .send b => sendProgram b
  | .recv _ n => recvProgram n
  | .stop _ => stopProgram
  | .pwron _ => pwronProgram c
  | .pwroff _ => pwroffProgram c
  | .settim v => settimProgram c v
  | .rdid _ => rdidProgram c
  | .rdch _ ch => rdchProgram c (channelOf ch)
  | .rdlux _ => rdluxProgram c
  | .init _ => initProgram c

/-- The micro-program `SEQ.op` and `SEQ.arg` select; no command latches another opcode (R41), and such a one would have
no step (log entry 11). -/
def State.program (s : State) : List MicroStep :=
  match decodeFields s.seqOp s.seqArg with
  | .ok i => programOf s.cfg i
  | .illegal _ => []

end Sys2Proof.Machine
end

