-- ==== Sys2Proof/Machine/Turns.lean ====
section
/-! DEFINITION. What each turn of the schedule does when it is taken by itself: a host access (spec/20_memory.md R71),
a block turn, or reset; and the host access that writes a given word to `CMD`. -/

namespace Sys2Proof.Machine

/-- A host write of `w` to `CMD` (R36): the word is decoded and its command issued, or it is illegal (R115). -/
def issueWord (w : Word) (s : State) : Host.Outcome State Fault Refusal :=
  match decode w with
  | .ok i => exec i s
  | .illegal _ => .next (issueIllegal w s)

/-- One host access: the read side first, then the write side (R71); register 5 issues a command (R36). -/
def hostTurn (p : HostPort) (s : State) : Host.Outcome State Fault Refusal :=
  if p.we then
    if p.addr = cmdReg then issueWord p.wdata (s.hostRead p)
    else .next ((s.hostRead p).hostWrite p.addr p.wdata)
  else .next (s.hostRead p)

/-- One turn, in the state whose schedule has moved past it. -/
def turn (t : Turn) (s : State) : Host.Outcome State Fault Refusal :=
  match t with
  | .host p => hostTurn p s
  | .reset => .next s.resetBlock
  | .sequencer => .next (blockTurn s.program .sequencer s)
  | .engine x => .next (blockTurn s.program (.engine x) s)
  | .delayPin level => .next (blockTurn s.program (.delayPin level) s)

/-- The host writes `v` to register `r`. -/
def HostPort.write (r : BitVec 4) (v : Word) : HostPort := { re := false, we := true, addr := r, wdata := v }

/-- The host reads register `r`. -/
def HostPort.read (r : BitVec 4) : HostPort := { re := true, we := false, addr := r, wdata := 0#16 }

/-- The host writes `w` to `CMD` in its next turn (log entry 3). -/
def State.withCommand (s : State) (w : Word) : State :=
  { s with schedule := .host (HostPort.write cmdReg w) :: s.schedule }

end Sys2Proof.Machine
end

