-- ==== Sys2Proof/Machine/Step.lean ====
section
/-! DEFINITION. One step: the next turn of the schedule. -/

namespace Sys2Proof.Machine

/-- With no turn to come no agent moves; only the diagnostic pulse ends (log entries 1 and 10). -/
def step (s : State) : Host.Outcome State Fault Refusal :=
  match s.schedule with
  | [] => .next (s.nextTurn [])
  | t :: rest => turn t (s.nextTurn rest)

/-- The block fetches nothing (R40): a program is command words the host writes. The next step is the host's write of
the word `w` to `CMD` (log entry 3). -/
def State.withFetchWord (s : State) (nbits w : Nat) : State :=
  s.withCommand (BitVec.ofNat 16 (w % 2 ^ nbits))

end Sys2Proof.Machine
end

