-- ==== Sys2Proof/Machine/Wire.lean ====
section
/-! DEFINITION. The pin-level picture of spec/44_wire_level.md, computed from the state: which lines the block releases
(R240), the waveform of each bus event (R241 to R247, R251), and the scan that recovers the events (R248). All of that
file is general knowledge and no other rule depends on it; nothing else in the model depends on this file (log entry 14). -/

namespace Sys2Proof.Machine

/-- R240 and R26: the block releases both lines while the bus is free or the engine is disabled. -/
def State.linesReleased (s : State) : Bool := !s.sstat.owned || !s.i2ccon.on

/-- Who sends on `SDA` (R244, R245, R246, R247). The levels alone do not show it, and the scan of R248 asks for it. -/
inductive Driver where
  | master
  | target
  deriving DecidableEq, Repr

/-- What each party does with the two open-drain lines (R240): `true` releases the line, `false` pulls it low. -/
structure Sample where
  masterScl : Bool
  masterSda : Bool
  targetScl : Bool
  targetSda : Bool
  driver : Driver
  deriving DecidableEq, Repr

/-- R240: the level of `SCL` is the AND of all parties; `true` is high. -/
def Sample.scl (x : Sample) : Bool := x.masterScl && x.targetScl

/-- R240: the level of `SDA` is the AND of all parties. -/
def Sample.sda (x : Sample) : Bool := x.masterSda && x.targetSda

/-- Everybody releases both lines. -/
def Sample.released : Sample :=
  { masterScl := true, masterSda := true, targetScl := true, targetSda := true, driver := .master }

/-- The master drives `SCL`; `d` puts `sda` on `SDA`, which the other party releases (R244 to R247). -/
def driven (d : Driver) (scl sda : Bool) : Sample :=
  match d with
  | .master => { masterScl := scl, masterSda := sda, targetScl := true, targetSda := true, driver := .master }
  | .target => { masterScl := scl, masterSda := true, targetScl := true, targetSda := sda, driver := .target }

/-- R249: the target holds `SCL` low. -/
def Sample.clockHeld (x : Sample) : Sample := { x with targetScl := false }

/-- One data bit, R244, up to the half clock in which `SCL` is high: `SDA` is set while `SCL` is low and held while it is
high. That the master then pulls `SCL` low is the first half clock of what follows, or `closing` (log entry 21). -/
def bitWave (d : Driver) (v : Bool) : List Sample := [driven d false v, driven d true v]

/-- Eight data bits, the most significant first (R245, R246). -/
def byteWave (d : Driver) (b : Byte) : List Sample :=
  bitWave d (b.getLsbD 7) ++ bitWave d (b.getLsbD 6) ++ bitWave d (b.getLsbD 5) ++ bitWave d (b.getLsbD 4) ++
    bitWave d (b.getLsbD 3) ++ bitWave d (b.getLsbD 2) ++ bitWave d (b.getLsbD 1) ++ bitWave d (b.getLsbD 0)

/-- The waveform of one bus event: R241, R242, R243, R245, R246, R247, one sample per half clock. R251 shows the half
clocks of `S`, `TX` and `P`, and of a data bit; that `Sr` takes four half clocks, one for each position R242 names, is the
model's choice (DESIGN CHOICE, log entry 20): R242 gives their order only. -/
def eventWave : BusEvent → List Sample
  | .start => [driven .master true false, driven .master false false]
  | .restart =>
    [driven .master false true, driven .master true true, driven .master true false, driven .master false false]
  | .stop => [driven .master false false, driven .master true false, driven .master true true]
  | .tx b a => byteWave .master b ++ bitWave .target (a == 1#1)
  | .rxd b => byteWave .target b
  | .mack n => bitWave .master (n == 1#1)

/-- R244: after a data bit the master pulls `SCL` low, and `SDA` keeps the bit until then. The other events end with
`SCL` where R241 to R243 leave it. -/
def closing : BusEvent → List Sample
  | .start => []
  | .restart => []
  | .stop => []
  | .tx _ a => [driven .target false (a == 1#1)]
  | .rxd b => [driven .target false (b.getLsbD 0)]
  | .mack n => [driven .master false (n == 1#1)]

/-- What follows the last event of a trace while no further one has begun. -/
def traceEnd (tr : List BusEvent) : List Sample :=
  match tr.getLast? with
  | some e => closing e
  | none => []

/-- The waveform of a bus trace that begins on a free bus. -/
def waveform (tr : List BusEvent) : List Sample := Sample.released :: tr.flatMap eventWave ++ traceEnd tr

/-- The waveform of a state's bus trace. -/
def State.waveform (s : State) : List Sample := Sys2Proof.Machine.waveform s.trace

/-- The lines between two operations, while no target holds `SCL`: released where R240 says that the block releases both,
else as the last event left them. That the target too releases both where the block does is the model's choice (DESIGN
CHOICE, log entry 23): after a reset in mid-transaction (R291) U16 leaves the target and the bus at any value, so it may
still pull `SDA` low. What the block itself does is `State.linesReleased`. -/
def State.lines (s : State) : Sample :=
  if s.linesReleased then Sample.released else s.waveform.getLast?.getD Sample.released

/-- R250, the waveform in `clk` cycles: `half` is the parameter `SCL_HALF`, and each event's half clocks last as long as
the divisor in force when it was sent asks for (log entry 22). The samples before and after the trace have no fixed
length and are given once. -/
def State.waveformAtRate (half : Word → Nat) (s : State) : List Sample :=
  Sample.released ::
    (s.trace.zip s.divisors).flatMap (fun x => (eventWave x.1).flatMap (List.replicate (half x.2))) ++ traceEnd s.trace

/-- The waveform at the chip's own rate. -/
def State.clockedWaveform (s : State) : List Sample := s.waveformAtRate Config.sclHalf

/-- A waveform in which each sample `x.1` is held for `x.2.1` further times, and a released `SCL` stays low for `x.2.2`
samples first because the target holds it (R249); `high` is the level of `SCL` before. -/
def stretched (high : Bool) : List (Sample × Nat × Nat) → List Sample
  | [] => []
  | (x, hold, wait) :: w =>
    (if !high && x.scl then List.replicate wait x.clockHeld else []) ++ List.replicate (hold + 1) x ++ stretched x.scl w

/-- What the scan of R248 remembers. -/
structure Scan where
  scl : Bool
  sda : Bool
  owned : Bool
  /-- The bits clocked in since the last byte or condition, oldest first. -/
  bits : List (Bool × Driver)
  events : List BusEvent
  deriving DecidableEq, Repr

/-- A free bus with both lines high. -/
def Scan.idle : Scan := { scl := true, sda := true, owned := false, bits := [], events := [] }

/-- The byte of eight bits, most significant first. -/
def byteOfBits (bits : List Bool) : Byte := bits.foldl (fun acc v => acc <<< 1 ||| (BitVec.ofBool v).zeroExtend 8) 0#8

/-- R248: nine clocked bits are one byte and its acknowledgment bit, a `TX` when the master drove the byte, an `RXD` and
a `MACK` when the target did. -/
def byteEvents (bits : List (Bool × Driver)) : List BusEvent :=
  let b := byteOfBits ((bits.take 8).map Prod.fst)
  let a := BitVec.ofBool ((bits.drop 8).any Prod.fst)
  match bits with
  | (_, .target) :: _ => [.rxd b, .mack a]
  | _ => [.tx b a]

/-- R248, one sample: a fall of `SDA` with `SCL` high is `S` on a free bus and `Sr` on a held one, a rise is `P`, a
rising edge of `SCL` clocks one bit. -/
def scanSample (st : Scan) (x : Sample) : Scan :=
  let st' := { st with scl := x.scl, sda := x.sda }
  if st.scl && x.scl then
    if st.sda && !x.sda then
      { st' with owned := true, bits := [], events := st.events ++ [if st.owned then .restart else .start] }
    else if !st.sda && x.sda then
      { st' with owned := false, bits := [], events := st.events ++ [.stop] }
    else st'
  else if x.scl then
    let bits := st.bits ++ [(x.sda, x.driver)]
    if bits.length = 9 then { st' with bits := [], events := st.events ++ byteEvents bits } else { st' with bits := bits }
  else st'

/-- R248: the event trace of a waveform. -/
def scan (w : List Sample) : List BusEvent := (w.foldl scanSample Scan.idle).events

end Sys2Proof.Machine
end

