-- ==== Sys2Proof/Safety.lean ====
section
/-! DEFINITION. The terms claims are stated in: where a bus trace stands in its language (spec/20_memory.md R93), the
coherence of a state (which requests, status bits and session go with which micro-step), readiness for a command,
schedules that grant a command what it waits for (70_reset_and_hazards.md R304), and the common part of a completed
command's next state. -/

namespace Sys2Proof.Machine

/-! The language of the bus trace. -/

/-- Where a bus trace stands. -/
inductive BusPos where
  /-- No transaction is open. -/
  | free
  /-- An `S` has no `P` after it yet. -/
  | held
  /-- As `held`, and the last event is an `RXD` whose `MACK` is still to come (R16). -/
  | byteIn
  deriving DecidableEq, Repr

/-- How one event moves a trace on; `none` is an event out of place. -/
def BusPos.next : BusPos → BusEvent → Option BusPos
  | .free, .start => some .held
  | .held, .restart => some .held
  | .held, .stop => some .free
  | .held, .tx _ _ => some .held
  | .held, .rxd _ => some .byteIn
  | .byteIn, .mack _ => some .held
  | _, _ => none

/-- R93: `some` for the prefixes of `( S body P )*`, in which every `RXD` is followed by its `MACK`. -/
def tracePos (tr : List BusEvent) : Option BusPos := tr.foldl (fun p e => p.bind (fun q => q.next e)) (some .free)

/-! Coherence. -/

/-- Whether the bus is held after the steps `ms`, if it was `held` before them. -/
def heldAfter (held : Bool) (ms : List MicroStep) : Bool :=
  ms.foldl (fun h m => match m with
    | .start => true
    | .stop => false
    | _ => h) held

/-- R119: the bus is held when a command of this kind is accepted. -/
def startsHeld : Instr → Bool
  | .restart _ => true
  | .send _ => true
  | .recv _ _ => true
  | .stop _ => true
  | _ => false

/-- The position of a bus held or free between bytes. -/
def posOf (held : Bool) : BusPos := if held then .held else .free

/-- The requests pending, `RBF`, `dly_req`, the bus as the trace and `OWNED` both have it, and one divisor noted for each
event of the trace. -/
def State.shows (s : State) (pending : List EngAct) (rbf dlyReq : Bool) (pos : BusPos) : Bool :=
  s.divisors.length == s.trace.length && s.pending == pending && s.i2cstat.rbf == rbf && s.dlyReq == dlyReq &&
    tracePos s.trace == some pos && s.sstat.owned == (pos != .free)

/-- What a state shows while micro-step `m` is in progress on a bus that was `held` before it. -/
def microStepCoherent (held : Bool) (m : MicroStep) (s : State) : Bool :=
  match m, s.seqPhase with
  | .start, .request => !held && s.shows [] false false .free
  | .start, .wait => !held && (s.shows [.start] false false .free || s.shows [] false false .held)
  | .restart, .request => held && s.shows [] false false .held
  | .restart, .wait => held && (s.shows [.restart] false false .held || s.shows [] false false .held)
  | .send _, .request => held && s.shows [] false false .held
  | .send b, .wait => held && s.i2ctrn == b && (s.shows [.tx] false false .held || s.shows [] false false .held)
  | .recv _ _, .request => held && s.shows [] false false .held
  | .recv _ _, .wait => held && (s.shows [.rx] false false .held || s.shows [] true false .byteIn)
  | .recv n _, .ackWait =>
    held && s.i2ccon.ackdt == n && (s.shows [.ack] false false .byteIn || s.shows [] false false .held)
  | .stop, .request => held && s.shows [] false false .held
  | .stop, .wait => held && (s.shows [.stop] false false .held || s.shows [] false false .free)
  | .delay _, .request => s.shows [] false false (posOf held)
  | .delay ms, .wait => s.dlyMs == ms && s.shows [] false true (posOf held)
  | _, .request => s.shows [] false false (posOf held)
  | _, _ => false

/-- R225: between commands, and in every command but `INIT`, the session is `Uninitialized` or `Ready`. -/
def Session.settled (x : Session) : Bool := x == .uninitialized || x == .ready

/-- R222, R225: the session while micro-step `pc` of `i` is still to be completed. -/
def sessionCoherent (i : Instr) (pc : Nat) (c : Sstat) : Bool :=
  match i with
  | .init _ =>
    if pc = 0 then c.session.settled
    else if pc ≤ 15 then c.session == .poweringUp
    else if pc ≤ 22 then c.session == sessionFromBadid c.badid && c.idwarn == c.badid
    else c.session == .ready
  | _ => c.session.settled

/-- A state as the rules keep it: with `BUSY = 0` nothing is requested and the session is settled; with `BUSY = 1` the
engine is enabled, `SEQ.op` and `SEQ.arg` select a micro-program, `SEQ.pc` a step of it, and the requests, the status
bits, the bus and the session are those of that step. -/
def State.coherent (s : State) : Bool :=
  if s.sstat.busy then
    match decodeFields s.seqOp s.seqArg with
    | .ok i =>
      s.i2ccon.on && sessionCoherent i s.seqPc.toNat s.sstat &&
        (match (programOf s.cfg i)[s.seqPc.toNat]? with
        | some m => microStepCoherent (heldAfter (startsHeld i) ((programOf s.cfg i).take s.seqPc.toNat)) m s
        | none => false)
    | .illegal _ => false
  else
    s.seqPc == 0#5 && s.seqPhase == .request && s.sstat.session.settled &&
      s.shows [] false false (posOf s.sstat.owned)

/-! Commands that are accepted, and schedules that let them complete. -/

/-- The engine is enabled, no command runs, no request is pending: what R114 asks before the bus-state test. -/
def State.ready (s : State) : Bool := !s.sstat.busy && s.i2ccon.on && s.pending == []

/-- R119's condition for a command. -/
def violates (i : Instr) (s : State) : Bool := if startsHeld i then !s.sstat.owned else s.sstat.owned

/-- How many engine completions a micro-step waits for. -/
def MicroStep.completions : MicroStep → Nat
  | .start => 1
  | .restart => 1
  | .send _ => 1
  | .recv _ _ => 2
  | .stop => 1
  | _ => 0

/-- The turns that carry out one micro-step: each request is followed by its completion with an answer of the list,
a delay by `dly_done` rising and falling (R279). -/
def stepTurns (m : MicroStep) (xs : List Answer) : List Turn :=
  match m with
  | .delay _ => [.sequencer, .delayPin true, .sequencer, .delayPin false]
  | m => (xs.take m.completions).flatMap (fun x => [Turn.sequencer, Turn.engine x]) ++ [.sequencer]

/-- `BUS_LIVE` and `DELAY_LIVE` for one micro-program (R304): the turns that carry it out, the answers in order. -/
def grant : List MicroStep → List Answer → List Turn
  | [], _ => []
  | m :: ms, xs => stepTurns m xs ++ grant ms (xs.drop m.completions)

/-- One round in which every agent but the host has a turn. -/
def roundTurns (x : Answer) : List Turn := [.engine x, .delayPin true, .sequencer]

/-! The next state of a completed command. -/

/-- The OR of acknowledgment bits (R180). -/
def anyNack (acks : List Bit) : Bool := acks.any (fun a => a == 1#1)

/-- One `NOACK` diagnostic per unacknowledged byte (R180). -/
def noackDiags (acks : List Bit) : List Diag := (acks.filter (fun a => a == 1#1)).map (fun _ => .noack)

/-- What every completed command `i` leaves (R38, R41, R44): `CMD`, `SEQ.op` and `SEQ.arg` hold its word, the sequencer
is back at step 0 with `BUSY = 0`, `RESULT` is `v`, the per-command flags are the given ones and the refusal flags are
clear, the events and diagnostics follow the earlier ones, each event with the divisor in force, and `rest` is still to
come. -/
def State.completed (s : State) (i : Instr) (v : Word) (noack sfault badid : Bool) (events : List BusEvent)
    (diags : List Diag) (rest : List Turn) : State :=
  { s with
    cmd := encode i
    seqOp := i.opcode
    seqArg := i.operand
    seqPc := 0#5
    seqPhase := .request
    sstat :=
      { s.sstat with
        busy := false, noack := noack, sfault := sfault, badid := badid, cmderr := false, errc := .none }
    result := v
    trace := s.trace ++ events
    divisors := s.divisors ++ List.replicate events.length s.i2cbrg
    diags := s.diags ++ diags
    schedule := rest
    diagPort := none }

/-- Holds or releases the bus, as a completed `START` or `STOP` leaves it. -/
def State.withOwned (s : State) (owned : Bool) : State := { s with sstat := { s.sstat with owned := owned } }

/-- `ACKSTAT` as the last transmitted byte leaves it (R31, R182). -/
def State.withAckstat (s : State) (a : Bit) : State := { s with i2cstat := { s.i2cstat with ackstat := a } }

/-- The write shape of R94. -/
def writeEvents (c : Config) (reg : BitVec 4) (v : Byte) (a1 a2 a3 : Bit) : List BusEvent :=
  [.start, .tx (addressWrite c) a1, .tx (commandByte reg) a2, .tx v a3, .stop]

/-- The read shape of R94 with one byte. -/
def readOneEvents (c : Config) (reg : BitVec 4) (a1 a2 a3 : Bit) (b : Byte) : List BusEvent :=
  [.start, .tx (addressWrite c) a1, .tx (commandByte reg) a2, .restart, .tx (addressRead c) a3, .rxd b, .mack 1#1,
    .stop]

/-- The read shape of R94 with two bytes. -/
def readTwoEvents (c : Config) (reg : BitVec 4) (a1 a2 a3 : Bit) (lo hi : Byte) : List BusEvent :=
  [.start, .tx (addressWrite c) a1, .tx (commandByte reg) a2, .restart, .tx (addressRead c) a3, .rxd lo, .mack 0#1,
    .rxd hi, .mack 1#1, .stop]

/-! Raw expansions (R123). -/

/-- The raw command of a primitive micro-step. -/
def rawOf : MicroStep → Option Instr
  | .start => some (.start 0#8)
  | .restart => some (.restart 0#8)
  | .send b => some (.send b)
  | .recv n _ => some (.recv 0#7 n)
  | .stop => some (.stop 0#8)
  | _ => none

/-- The host issues the primitives of a micro-program one by one, each granted its completions. -/
def rawSchedule (c : Config) : List MicroStep → List Answer → List Turn
  | [], _ => []
  | m :: ms, xs =>
    match rawOf m with
    | some i =>
      .host (HostPort.write cmdReg (encode i)) :: grant (programOf c i) (xs.take m.completions) ++
        rawSchedule c ms (xs.drop m.completions)
    | none => rawSchedule c ms xs

/-- How many raw commands a micro-program expands to. -/
def rawCount (ms : List MicroStep) : Nat := (ms.filterMap rawOf).length

end Sys2Proof.Machine
end

