-- ==== Sys2Proof/Certificates/Slice0/Obligations.lean ====
section
/-! DEFINITION. The statements about ALS-I2CM, one per numbered rule or group of rules of spec/; OBLIGATIONS.json lists
them. A schedule in a hypothesis stands for the choices of the host and the environment (log entry 1), so a statement
about every state holds for every answer of the target (spec/00_scope.md R17). -/

open Sys2Proof Sys2Proof.Machine

/-! ## Encoding -/

/-- Every instruction, with every value of every operand and of every ignored bit, is read back from its own word. -/
def Obligations.DecodeReadsBackEveryEncoding : Prop :=
  ∀ i : Instr, decode (encode i) = .ok i

/-- A word that decodes is the encoding of what it decodes to: no two words stand for one instruction. -/
def Obligations.DecodedWordIsItsEncoding : Prop :=
  ∀ (w : Word) (i : Instr), decode w = .ok i → encode i = w

/-- R124: a word decodes to a row's instruction exactly when `(w & 0xFF00)` is the row's `match`, and to none exactly
when no row matches. -/
def Obligations.DecoderFollowsTableRows : Prop :=
  (∀ (w : Word) (i : Instr), decode w = .ok i → w &&& 0xFF00#16 = i.opcode.zeroExtend 16 <<< 8) ∧
  (∀ w : Word, (∃ i : Instr, w &&& 0xFF00#16 = i.opcode.zeroExtend 16 <<< 8) → ∃ i, decode w = .ok i) ∧
  (∀ w : Word, (∀ i : Instr, w &&& 0xFF00#16 ≠ i.opcode.zeroExtend 16 <<< 8) → decode w = .illegal (opcodeOf w))

/-- R115 with R116: exactly the opcodes 0x00, 0x06 to 0x0F and 0x17 to 0xFF are illegal, and each is refused in one
step with `ERRC = 1`, whatever the engine and the bus are doing between commands (R117). -/
def Obligations.IllegalOpcodesAreRefused : Prop :=
  ∀ w : Word,
    (w.extractLsb' 8 8 = 0x00#8 ∨ (0x06 ≤ (w.extractLsb' 8 8).toNat ∧ (w.extractLsb' 8 8).toNat ≤ 0x0F) ∨
        0x17 ≤ (w.extractLsb' 8 8).toNat ↔ decode w = .illegal (w.extractLsb' 8 8)) ∧
    ∀ s : State, decode w = .illegal (w.extractLsb' 8 8) → s.sstat.busy = false →
      issueWord w s = .next
        { s with
          cmd := w
          result := 0#16
          sstat :=
            { s.sstat with
              noack := false, sfault := false, badid := false, cmderr := true, errc := .illegalOpcode } }

/-- Words of spec/95_test_vectors.md, written out from R110 and R111, decode to what they stand for. -/
def Obligations.SpecWordsDecode : Prop :=
  decode 0x01AB#16 = .ok (.start 0xAB#8) ∧ decode 0x0200#16 = .ok (.restart 0x00#8) ∧
  decode 0x0372#16 = .ok (.send 0x72#8) ∧ decode 0x0401#16 = .ok (.recv 0#7 1#1) ∧
  decode 0x04FE#16 = .ok (.recv 0x7F#7 0#1) ∧ decode 0x0500#16 = .ok (.stop 0x00#8) ∧
  decode 0x1000#16 = .ok (.pwron 0x00#8) ∧ decode 0x1100#16 = .ok (.pwroff 0x00#8) ∧
  decode 0x1211#16 = .ok (.settim 0x11#8) ∧ decode 0x1300#16 = .ok (.rdid 0x00#8) ∧
  decode 0x14FF#16 = .ok (.rdch 0x7F#7 1#1) ∧ decode 0x1500#16 = .ok (.rdlux 0x00#8) ∧
  decode 0x1600#16 = .ok (.init 0x00#8) ∧ decode 0x0600#16 = .illegal 0x06#8 ∧ decode 0x1700#16 = .illegal 0x17#8

/-- R100, R101, R103, R104: the address bytes are `DEV_ADDR` shifted left with the direction in bit 0, the command byte
is the register index with bit 7 set, a reading is `high*256 + low`, and the expected ID bytes are 0x10 and 0x50. -/
def Obligations.WireBytes : Prop :=
  (∀ c : Config, (addressWrite c).toNat = 2 * c.devAddr.toNat ∧ (addressRead c).toNat = 2 * c.devAddr.toNat + 1) ∧
  (∀ r : BitVec 4, (commandByte r).toNat = 0x80 + r.toNat) ∧
  (∀ high low : Byte, (assemble high low).toNat = high.toNat * 256 + low.toNat) ∧
  (∀ b : Byte, idExpected b = true ↔ b.toNat = 0x10 ∨ b.toNat = 0x50)

/-! ## Steps -/

/-- A host turn that writes a legal command word to `CMD` is `exec` of the decoded instruction, after the schedule has
moved on and the read side of the same access (R71); `withFetchWord` places just such a turn. -/
def Obligations.StepRunsTheIssuedCommand : Prop :=
  (∀ (s : State) (re : Bool) (w : Word) (rest : List Turn) (i : Instr),
    s.schedule = .host { re := re, we := true, addr := 5#4, wdata := w } :: rest → decode w = .ok i →
      step s = exec i ((s.nextTurn rest).hostRead { re := re, we := true, addr := 5#4, wdata := w })) ∧
  (∀ (s : State) (w : Nat) (i : Instr), decodeTableWord 16 w = some i →
    step (s.withFetchWord 16 w) = exec i (s.nextTurn s.schedule))

/-- Every other step takes one turn: the sequencer, the engine and `dly_done` act within the micro-program that
`SEQ.op` and `SEQ.arg` select; a host access is its read side, then its write side (R71), which for `CMD` examines the
word, legal or not; reset acts at once; with no turn to come no agent moves (R131, R292). The schedule, the end of the
diagnostic pulse and the free value read with `h_re` and `h_we` both 1 are the model's (log entries 1, 7 and 10). -/
def Obligations.StepTakesOneTurn : Prop :=
  (∀ (s : State) (rest : List Turn), s.schedule = .sequencer :: rest →
    step s = .next (sequencerTurn s.program (s.nextTurn rest))) ∧
  (∀ (s : State) (x : Answer) (rest : List Turn), s.schedule = .engine x :: rest →
    step s = .next (engineTurn x (s.nextTurn rest))) ∧
  (∀ (s : State) (level : Bool) (rest : List Turn), s.schedule = .delayPin level :: rest →
    step s = .next { s with schedule := rest, diagPort := none, dlyDone := level }) ∧
  (∀ (s : State) (p : HostPort) (rest : List Turn), s.schedule = .host p :: rest → p.we = false →
    step s = .next ((s.nextTurn rest).hostRead p)) ∧
  (∀ (s : State) (p : HostPort) (rest : List Turn), s.schedule = .host p :: rest → p.we = true → p.addr ≠ 5#4 →
    step s = .next (((s.nextTurn rest).hostRead p).hostWrite p.addr p.wdata)) ∧
  (∀ (s : State) (p : HostPort) (rest : List Turn), s.schedule = .host p :: rest → p.we = true → p.addr = 5#4 →
    step s = issueWord p.wdata ((s.nextTurn rest).hostRead p) ∧
      ∀ o : Byte, decode p.wdata = .illegal o →
        step s = .next (issueIllegal p.wdata ((s.nextTurn rest).hostRead p))) ∧
  (∀ (s : State) (rest : List Turn), s.schedule = .reset :: rest → step s = .next (s.nextTurn rest).resetBlock) ∧
  (∀ (s : State) (p : HostPort), p.re = true → p.we = true →
    s.hostRead p = { s with hRdata := Config.freeReadData s.freeCount, freeCount := s.freeCount + 1 }) ∧
  (∀ s : State, s.schedule = [] → step s = .next { s with diagPort := none })

/-! ## Examination of a command word -/

/-- R300: any word, legal or not, written while `BUSY = 1` is lost: `OVR` is set and nothing else changes; and once set
it stays, whatever turn is taken, until reset. -/
def Obligations.OverrunLosesTheWord : Prop :=
  (∀ (s : State) (w : Word), s.sstat.busy = true →
    issueWord w s = .next { s with sstat := { s.sstat with ovr := true } } ∧
    ∀ i, exec i s = .next { s with sstat := { s.sstat with ovr := true } }) ∧
  (∀ (s u : State) (t : Turn), s.sstat.ovr = true → t ≠ .reset → turn t s = .next u → u.sstat.ovr = true) ∧
  (∀ s : State, ∃ u, turn .reset s = .next u ∧ u.sstat.ovr = false)

/-- R118 with R116: every legal command is refused with `ERRC = 2` while the engine is disabled. -/
def Obligations.DisabledEngineRefuses : Prop :=
  ∀ (i : Instr) (s : State), s.sstat.busy = false → s.i2ccon.on = false →
    exec i s = .next
      { s with
        cmd := encode i
        result := 0#16
        sstat :=
          { s.sstat with
            noack := false, sfault := false, badid := false, cmderr := true, errc := .engineDisabled } }

/-- R119 with R116: `START` and the sensor commands on a held bus, the other raw commands on a free bus, are refused
with `ERRC = 3`. -/
def Obligations.BusStateViolationRefuses : Prop :=
  ∀ (i : Instr) (s : State), s.sstat.busy = false → s.i2ccon.on = true →
    s.sstat.owned = (match i with
      | .restart _ => false
      | .send _ => false
      | .recv _ _ => false
      | .stop _ => false
      | _ => true) →
    exec i s = .next
      { s with
        cmd := encode i
        result := 0#16
        sstat :=
          { s.sstat with noack := false, sfault := false, badid := false, cmderr := true, errc := .busState } }

/-- R41 and R114: a command accepted while no further turn is to come has latched its opcode and operand, starts at
step 0, and nothing on the bus has moved. -/
def Obligations.AcceptanceLatchesTheCommand : Prop :=
  ∀ (i : Instr) (s : State), s.sstat.busy = false → s.i2ccon.on = true → violates i s = false → s.schedule = [] →
    exec i s = .next
      { s with
        cmd := encode i
        seqOp := (encode i).extractLsb' 8 8
        seqArg := (encode i).extractLsb' 0 8
        seqPc := 0#5
        seqPhase := .request
        sstat :=
          { s.sstat with
            busy := true, noack := false, sfault := false, badid := false, cmderr := false, errc := .none } }

/-- R36: whatever the host writes to `CMD` while `BUSY = 0`, accepted or refused, register 5 reads as that word
afterwards. -/
def Obligations.CmdReadsAsLastExaminedWord : Prop :=
  ∀ (s t : State) (w : Word), s.sstat.busy = false → issueWord w s = .next t → t.cmd = w ∧ t.readReg 5#4 = w

/-! ## The raw commands complete

In this section and the next, the turns of the hypothesis, that `h_rdata` and `dly_ms` keep their values, that the
diagnostic pulse is over, that the control point is back at its start, and the divisors noted beside the events are the
model's (log entries 1, 4, 7, 9, 10 and 22). -/

/-- R151: `START` on a free bus, granted its completion, appends `S` and holds the bus. -/
def Obligations.StartCompletes : Prop :=
  ∀ (s : State) (operand : Byte) (x : Answer) (rest : List Turn),
    s.ready = true → s.sstat.owned = false → s.schedule = grant startProgram [x] ++ rest →
      exec (.start operand) s =
        .next ((s.completed (.start operand) 0#16 false false false [.start] [] rest).withOwned true)

/-- R152: `RESTART` on a held bus, granted its completion, appends `Sr`. -/
def Obligations.RestartCompletes : Prop :=
  ∀ (s : State) (operand : Byte) (x : Answer) (rest : List Turn),
    s.ready = true → s.sstat.owned = true → s.schedule = grant restartProgram [x] ++ rest →
      exec (.restart operand) s =
        .next (s.completed (.restart operand) 0#16 false false false [.restart] [] rest)

/-- R153: `SEND b` on a held bus, granted its completion with the target's bit `a`, appends `TX(b, a)`; `RESULT` is `a`,
and with `a = 1` the flag `NOACK` and one diagnostic. -/
def Obligations.SendCompletes : Prop :=
  ∀ (s : State) (b : Byte) (x : Answer) (rest : List Turn),
    s.ready = true → s.sstat.owned = true → s.schedule = grant (sendProgram b) [x] ++ rest →
      exec (.send b) s = .next
        { (s.completed (.send b) (x.ack.zeroExtend 16) (x.ack == 1#1) false false [.tx b x.ack]
            (if x.ack = 1#1 then [.noack] else []) rest).withAckstat x.ack with i2ctrn := b }

/-- R154: `RECV n` on a held bus, granted its two completions with the target's byte `v`, appends `RXD(v) MACK(n)`;
`RESULT` and `I2CRCV` are `v`, `ACKDT` is `n`, `RBF` is clear. -/
def Obligations.RecvCompletes : Prop :=
  ∀ (s : State) (unused : BitVec 7) (n : Bit) (x y : Answer) (rest : List Turn),
    s.ready = true → s.sstat.owned = true → s.schedule = grant (recvProgram n) [x, y] ++ rest →
      exec (.recv unused n) s = .next
        { s.completed (.recv unused n) (x.byte.zeroExtend 16) false false false [.rxd x.byte, .mack n] [] rest with
          i2crcv := x.byte
          i2cstat := { s.i2cstat with rbf := false }
          i2ccon := { s.i2ccon with ackdt := n } }

/-- R155: `STOP` on a held bus, granted its completion, appends `P` and frees the bus. -/
def Obligations.StopCompletes : Prop :=
  ∀ (s : State) (operand : Byte) (x : Answer) (rest : List Turn),
    s.ready = true → s.sstat.owned = true → s.schedule = grant stopProgram [x] ++ rest →
      exec (.stop operand) s =
        .next ((s.completed (.stop operand) 0#16 false false false [.stop] [] rest).withOwned false)

/-! ## The sensor register commands complete -/

/-- R175: `PWRON` writes 0x03 to the control register; `NOACK` is the OR of the three acknowledgment bits, one
diagnostic each; the session is unchanged. -/
def Obligations.PwronCompletes : Prop :=
  ∀ (s : State) (operand : Byte) (x0 x1 x2 x3 x4 : Answer) (rest : List Turn),
    s.ready = true → s.sstat.owned = false → s.schedule = grant (pwronProgram s.cfg) [x0, x1, x2, x3, x4] ++ rest →
      exec (.pwron operand) s = .next
        { (s.completed (.pwron operand) 0#16 (anyNack [x1.ack, x2.ack, x3.ack]) false false
            (writeEvents s.cfg 0x0#4 0x03#8 x1.ack x2.ack x3.ack) (noackDiags [x1.ack, x2.ack, x3.ack])
            rest).withAckstat x3.ack with i2ctrn := 0x03#8 }

/-- R176: `PWROFF` writes 0x00 to the control register, and the session becomes `Uninitialized` with `IDWARN = 0`. The
byte 0x00 is the spec's own choice D5 (log entry 17). -/
def Obligations.PwroffCompletes : Prop :=
  ∀ (s : State) (operand : Byte) (x0 x1 x2 x3 x4 : Answer) (rest : List Turn),
    s.ready = true → s.sstat.owned = false → s.schedule = grant (pwroffProgram s.cfg) [x0, x1, x2, x3, x4] ++ rest →
      exec (.pwroff operand) s = .next
        { ((s.completed (.pwroff operand) 0#16 (anyNack [x1.ack, x2.ack, x3.ack]) false false
            (writeEvents s.cfg 0x0#4 0x00#8 x1.ack x2.ack x3.ack) (noackDiags [x1.ack, x2.ack, x3.ack])
            rest).withAckstat x3.ack).setSession .uninitialized false with i2ctrn := 0x00#8 }

/-- R177: `SETTIM v` writes any byte `v` to the timing register; the session is unchanged. -/
def Obligations.SettimCompletes : Prop :=
  ∀ (s : State) (v : Byte) (x0 x1 x2 x3 x4 : Answer) (rest : List Turn),
    s.ready = true → s.sstat.owned = false → s.schedule = grant (settimProgram s.cfg v) [x0, x1, x2, x3, x4] ++ rest →
      exec (.settim v) s = .next
        { (s.completed (.settim v) 0#16 (anyNack [x1.ack, x2.ack, x3.ack]) false false
            (writeEvents s.cfg 0x1#4 v x1.ack x2.ack x3.ack) (noackDiags [x1.ack, x2.ack, x3.ack])
            rest).withAckstat x3.ack with i2ctrn := v }

/-- R178 and R181: `RDID` reads the ID register into `IDR` and `RESULT`, and raises `UnexpectedDeviceId` exactly when
the byte is neither 0x10 nor 0x50. -/
def Obligations.RdidCompletes : Prop :=
  ∀ (s : State) (operand : Byte) (x0 x1 x2 x3 x4 x5 x6 x7 : Answer) (rest : List Turn),
    s.ready = true → s.sstat.owned = false →
    s.schedule = grant (rdidProgram s.cfg) [x0, x1, x2, x3, x4, x5, x6, x7] ++ rest →
      exec (.rdid operand) s = .next
        { (s.completed (.rdid operand) (x5.byte.zeroExtend 16) (anyNack [x1.ack, x2.ack, x4.ack]) false
            (x5.byte != 0x10#8 && x5.byte != 0x50#8)
            (readOneEvents s.cfg 0xA#4 x1.ack x2.ack x4.ack x5.byte)
            (noackDiags [x1.ack, x2.ack, x4.ack] ++
              if x5.byte = 0x10#8 ∨ x5.byte = 0x50#8 then [] else [.badid])
            rest) with
          i2ctrn := addressRead s.cfg
          i2crcv := x5.byte
          idr := x5.byte
          i2cstat := { ackstat := x4.ack, trstat := false, rbf := false }
          i2ccon := { s.i2ccon with ackdt := 1#1 } }

/-- R179: `RDCH c` reads two bytes, the low one first, into `CHc` and `RESULT`; the other channel is unchanged and the
reading is not validated. -/
def Obligations.RdchCompletes : Prop :=
  ∀ (s : State) (unused : BitVec 7) (c : Bit) (x0 x1 x2 x3 x4 x5 x6 x7 x8 x9 : Answer) (rest : List Turn),
    s.ready = true → s.sstat.owned = false →
    s.schedule = grant (rdchProgram s.cfg (channelOf c)) [x0, x1, x2, x3, x4, x5, x6, x7, x8, x9] ++ rest →
      exec (.rdch unused c) s = .next
        { (s.completed (.rdch unused c) (x7.byte ++ x5.byte) (anyNack [x1.ack, x2.ack, x4.ack]) false false
            (readTwoEvents s.cfg (if c = 0#1 then 0xC#4 else 0xE#4) x1.ack x2.ack x4.ack x5.byte x7.byte)
            (noackDiags [x1.ack, x2.ack, x4.ack]) rest) with
          i2ctrn := addressRead s.cfg
          i2crcv := x7.byte
          seqLo := x5.byte
          ch0 := if c = 0#1 then x7.byte ++ x5.byte else s.ch0
          ch1 := if c = 0#1 then s.ch1 else x7.byte ++ x5.byte
          i2cstat := { ackstat := x4.ack, trstat := false, rbf := false }
          i2ccon := { s.i2ccon with ackdt := 1#1 } }

/-- R192 to R194: `RDLUX` reads CH0, then CH1, each as `RDCH` does, converts the pair, and raises `SensorFault` exactly
when the converter does; the session is unchanged. -/
def Obligations.RdluxCompletes : Prop :=
  ∀ (s : State) (operand : Byte) (x0 x1 x2 x3 x4 x5 x6 x7 x8 x9 y0 y1 y2 y3 y4 y5 y6 y7 y8 y9 : Answer)
    (rest : List Turn),
    s.ready = true → s.sstat.owned = false →
    s.schedule = grant (rdluxProgram s.cfg)
      [x0, x1, x2, x3, x4, x5, x6, x7, x8, x9, y0, y1, y2, y3, y4, y5, y6, y7, y8, y9] ++ rest →
      exec (.rdlux operand) s = .next
        { (s.completed (.rdlux operand)
            (BitVec.ofNat 16 (luxconv s.cfg.ch0ZeroIsFault (x7.byte ++ x5.byte) (y7.byte ++ y5.byte)).1)
            (anyNack [x1.ack, x2.ack, x4.ack, y1.ack, y2.ack, y4.ack])
            (luxconv s.cfg.ch0ZeroIsFault (x7.byte ++ x5.byte) (y7.byte ++ y5.byte)).2 false
            (readTwoEvents s.cfg 0xC#4 x1.ack x2.ack x4.ack x5.byte x7.byte ++
              readTwoEvents s.cfg 0xE#4 y1.ack y2.ack y4.ack y5.byte y7.byte)
            (noackDiags [x1.ack, x2.ack, x4.ack, y1.ack, y2.ack, y4.ack] ++
              if (luxconv s.cfg.ch0ZeroIsFault (x7.byte ++ x5.byte) (y7.byte ++ y5.byte)).2 then [.sfault] else [])
            rest) with
          i2ctrn := addressRead s.cfg
          i2crcv := y7.byte
          seqLo := y5.byte
          ch0 := x7.byte ++ x5.byte
          ch1 := y7.byte ++ y5.byte
          lux := BitVec.ofNat 16 (luxconv s.cfg.ch0ZeroIsFault (x7.byte ++ x5.byte) (y7.byte ++ y5.byte)).1
          i2cstat := { ackstat := y4.ack, trstat := false, rbf := false }
          i2ccon := { s.i2ccon with ackdt := 1#1 } }

/-- R222 and R223: `INIT` powers the target on, asks for 200 ms, reads and checks the ID, writes `TIMING_DEFAULT`, asks
for 500 ms, and ends `Ready` with the ID in `IDR` and `RESULT`; an unexpected ID only sets `BADID` and `IDWARN` and
leaves one diagnostic, between those of the ID read and those of the timing write. That `dly_ms` still shows 500 is the
model's choice (log entry 9), and the levels of `dly_done` are the turns' (log entry 8). -/
def Obligations.InitCompletes : Prop :=
  ∀ (s : State) (operand : Byte) (x0 x1 x2 x3 x4 y0 y1 y2 y3 y4 y5 y6 y7 z0 z1 z2 z3 z4 : Answer)
    (rest : List Turn),
    s.ready = true → s.sstat.owned = false →
    s.schedule = grant (initProgram s.cfg)
      [x0, x1, x2, x3, x4, y0, y1, y2, y3, y4, y5, y6, y7, z0, z1, z2, z3, z4] ++ rest →
      exec (.init operand) s = .next
        { (s.completed (.init operand) (y5.byte.zeroExtend 16)
            (anyNack [x1.ack, x2.ack, x3.ack, y1.ack, y2.ack, y4.ack, z1.ack, z2.ack, z3.ack]) false
            (y5.byte != 0x10#8 && y5.byte != 0x50#8)
            (writeEvents s.cfg 0x0#4 0x03#8 x1.ack x2.ack x3.ack ++
              readOneEvents s.cfg 0xA#4 y1.ack y2.ack y4.ack y5.byte ++
              writeEvents s.cfg 0x1#4 s.cfg.timingDefault z1.ack z2.ack z3.ack)
            (noackDiags [x1.ack, x2.ack, x3.ack, y1.ack, y2.ack, y4.ack] ++
              (if y5.byte = 0x10#8 ∨ y5.byte = 0x50#8 then [] else [.badid]) ++
              noackDiags [z1.ack, z2.ack, z3.ack])
            rest).setSession .ready (y5.byte != 0x10#8 && y5.byte != 0x50#8) with
          i2ctrn := s.cfg.timingDefault
          i2crcv := y5.byte
          idr := y5.byte
          i2cstat := { ackstat := z3.ack, trstat := false, rbf := false }
          i2ccon := { s.i2ccon with ackdt := 1#1 }
          dlyReq := false
          dlyMs := 500#10
          dlyDone := false
          delays := s.delays ++ [200#10, 500#10] }

/-! ## Termination and hangs -/

/-- R230, R304: under `BUS_LIVE` and `DELAY_LIVE` every accepted command terminates. Forty-four rounds, in each of which
the environment, the delay collaborator and the sequencer have a turn, bring any of the twelve commands to `BUSY = 0`,
whatever the target answers. -/
def Obligations.AcceptedCommandTerminatesUnderLiveness : Prop :=
  ∀ (i : Instr) (s : State) (xs : List Answer) (rest : List Turn),
    s.ready = true → violates i s = false → 44 ≤ xs.length → s.schedule = xs.flatMap roundTurns ++ rest →
      ∃ t, exec i s = .next t ∧ t.sstat.busy = false ∧ t.sstat.cmderr = false

/-- R304: without completions an accepted command hangs. If no engine turn is to come, `BUSY` is still 1 when the
command's turns are over, and the bus trace has not moved. -/
def Obligations.CommandHangsWithoutCompletions : Prop :=
  ∀ (i : Instr) (s t : State),
    s.ready = true → violates i s = false → (∀ x, Turn.engine x ∉ s.schedule) → exec i s = .next t →
      t.sstat.busy = true ∧ t.trace = s.trace

/-! ## The bus engine and the primitives -/

/-- R132 to R137: what each request changes, and what each completion step does, with the oracle's answers. The control
point that moves with a request and the divisor noted beside an event are the model's (log entries 4 and 22). -/
def Obligations.EngineOperations : Prop :=
  ∀ (s : State) (x : Answer) (b : Byte) (n : Bit) (d : RecvDst),
    (s.seqPhase = .request →
      startPrimitive s = { s with i2ccon := { s.i2ccon with sen := true }, seqPhase := .wait } ∧
      restartPrimitive s = { s with i2ccon := { s.i2ccon with rsen := true }, seqPhase := .wait } ∧
      stopPrimitive s = { s with i2ccon := { s.i2ccon with pen := true }, seqPhase := .wait } ∧
      sendPrimitive b s =
        { s with i2ctrn := b, i2cstat := { s.i2cstat with trstat := true }, seqPhase := .wait } ∧
      recvPrimitive n d s = { s with i2ccon := { s.i2ccon with rcen := true }, seqPhase := .wait }) ∧
    (s.seqPhase = .wait → s.i2cstat.rbf = true →
      recvPrimitive n d s =
        { s with
          i2cstat := { s.i2cstat with rbf := false }
          i2ccon := { s.i2ccon with ackdt := n, acken := true }
          seqPhase := .ackWait }) ∧
    (s.i2ccon.on = true →
      (s.engAct = some .start → engineTurn x s =
        { s with
          trace := s.trace ++ [.start]
          divisors := s.divisors ++ [s.i2cbrg]
          i2ccon := { s.i2ccon with sen := false }
          sstat := { s.sstat with owned := true } }) ∧
      (s.engAct = some .restart → engineTurn x s =
        { s with
          trace := s.trace ++ [.restart]
          divisors := s.divisors ++ [s.i2cbrg]
          i2ccon := { s.i2ccon with rsen := false } }) ∧
      (s.engAct = some .stop → engineTurn x s =
        { s with
          trace := s.trace ++ [.stop]
          divisors := s.divisors ++ [s.i2cbrg]
          i2ccon := { s.i2ccon with pen := false }
          sstat := { s.sstat with owned := false } }) ∧
      (s.engAct = some .tx → engineTurn x s =
        { s with
          trace := s.trace ++ [.tx s.i2ctrn x.ack]
          divisors := s.divisors ++ [s.i2cbrg]
          i2cstat := { s.i2cstat with ackstat := x.ack, trstat := false } }) ∧
      (s.engAct = some .rx → engineTurn x s =
        { s with
          trace := s.trace ++ [.rxd x.byte]
          divisors := s.divisors ++ [s.i2cbrg]
          i2crcv := x.byte
          i2cstat := { s.i2cstat with rbf := true }
          i2ccon := { s.i2ccon with rcen := false } }) ∧
      (s.engAct = some .ack → engineTurn x s =
        { s with
          trace := s.trace ++ [.mack s.i2ccon.ackdt]
          divisors := s.divisors ++ [s.i2cbrg]
          i2ccon := { s.i2ccon with acken := false } }))

/-- R130, R230: while what it awaits has not happened, the sequencer changes nothing, whichever primitive it is in. -/
def Obligations.WaitingSequencerChangesNothing : Prop :=
  ∀ s : State, s.seqPhase ≠ .request →
    (s.i2ccon.sen = true → microTurn .start s = s) ∧ (s.i2ccon.rsen = true → microTurn .restart s = s) ∧
    (s.i2ccon.pen = true → microTurn .stop s = s) ∧
    (∀ b, s.i2cstat.trstat = true → microTurn (.send b) s = s) ∧
    (∀ n d, s.seqPhase = .wait → s.i2cstat.rbf = false → microTurn (.recv n d) s = s) ∧
    (∀ n d, s.seqPhase = .ackWait → s.i2ccon.acken = true → microTurn (.recv n d) s = s) ∧
    (∀ ms, s.dlyDone = false → microTurn (.delay ms) s = s)

/-- R279, R179, R224: what `DELAY`, `LATCH` and `SESSION` change in one turn. The control point is the model's (log entry
4), and so is `dly_done` as the level sampled in that turn (log entry 8). -/
def Obligations.DelayLatchSessionSteps : Prop :=
  ∀ s : State,
    (∀ ms, s.seqPhase = .request →
      microTurn (.delay ms) s = { s with dlyMs := ms, dlyReq := true, delays := s.delays ++ [ms], seqPhase := .wait }) ∧
    (∀ ms, s.seqPhase = .wait → s.dlyDone = true →
      microTurn (.delay ms) s = { s with dlyReq := false, seqPc := s.seqPc + 1#5, seqPhase := .request }) ∧
    microTurn (.latch .ch0) s =
      { s with ch0 := s.i2crcv ++ s.seqLo, seqPc := s.seqPc + 1#5, seqPhase := .request } ∧
    microTurn (.latch .ch1) s =
      { s with ch1 := s.i2crcv ++ s.seqLo, seqPc := s.seqPc + 1#5, seqPhase := .request } ∧
    microTurn (.sessionClear .poweringUp) s =
      { s with
        sstat := { s.sstat with session := .poweringUp, idwarn := false }
        seqPc := s.seqPc + 1#5
        seqPhase := .request } ∧
    microTurn (.sessionClear .uninitialized) s =
      { s with
        sstat := { s.sstat with session := .uninitialized, idwarn := false }
        seqPc := s.seqPc + 1#5
        seqPhase := .request } ∧
    microTurn .sessionFromId s =
      { s with
        sstat :=
          { s.sstat with
            session := if s.sstat.badid = true then .idInvalid else .idValidated
            idwarn := s.sstat.badid }
        seqPc := s.seqPc + 1#5
        seqPhase := .request } ∧
    microTurn .sessionReady s =
      { s with
        sstat := { s.sstat with session := .ready }
        seqPc := s.seqPc + 1#5
        seqPhase := .request }

/-- R44: `DONE v` is the last step of every micro-program and of none the first or a middle one; it writes `RESULT`,
clears `BUSY` and `SEQ.pc`, leaves every other register, and the sequencer has no step after it. The control point is the
model's (log entry 4). -/
def Obligations.DoneEndsTheCommand : Prop :=
  (∀ (c : Config) (i : Instr),
    ∃ ms v, programOf c i = ms ++ [.done v] ∧ ∀ m ∈ ms, ∀ u, m ≠ MicroStep.done u) ∧
  ∀ (s : State) (v : ResultSrc) (prog : List MicroStep),
    microTurn (.done v) s =
      { s with
        result := s.resultOf v
        sstat := { s.sstat with busy := false }
        seqPc := 0#5
        seqPhase := .request } ∧
    sequencerTurn prog (microTurn (.done v) s) = microTurn (.done v) s

/-- R26: while `ON = 0` the engine performs no operation, both lines are released, and every command issued is refused;
a host write that changes `ON` (and `DISSLW` beside it) changes nothing else. -/
def Obligations.DisabledEngineDoesNothing : Prop :=
  (∀ (s : State) (x : Answer), s.i2ccon.on = false → engineTurn x s = s ∧ s.linesReleased = true) ∧
  (∀ (s : State) (i : Instr), s.i2ccon.on = false → s.sstat.busy = false →
    ∃ t, exec i s = .next t ∧ t.sstat.cmderr = true ∧ t.sstat.busy = false ∧ t.trace = s.trace) ∧
  (∀ (s : State) (v : Word),
    s.hostWrite 0#4 v = s ∨
      s.hostWrite 0#4 v = { s with i2ccon := { s.i2ccon with on := v.getLsbD 15, disslw := v.getLsbD 9 } })

/-- R268 with R142, R181 and R194: the diagnostic codes are 1, 2 and 3 (R261, R275); a fault raised in a micro-step is
its `SSTAT` flag and one diagnostic, in that very turn; `SEQ.pc` advances as for any completed step. With no fault the
same turn only advances, `CONV` storing the lux value in either case. The control point and the length of the pulse are
the model's (log entries 4 and 10). -/
def Obligations.RaisedFaultIsFlagAndDiagnostic : Prop :=
  (Diag.noack.code = 1#2 ∧ Diag.sfault.code = 2#2 ∧ Diag.badid.code = 3#2) ∧
  (∀ (s : State) (b : Byte), s.seqPhase = .wait → s.i2cstat.trstat = false →
    microTurn (.send b) s =
      if s.i2cstat.ackstat = 1#1 then
        { s with
          sstat := { s.sstat with noack := true }
          diags := s.diags ++ [.noack]
          diagPort := some .noack
          seqPc := s.seqPc + 1#5
          seqPhase := .request }
      else { s with seqPc := s.seqPc + 1#5, seqPhase := .request }) ∧
  (∀ s : State,
    microTurn .checkId s =
      if s.idr ≠ 0x10#8 ∧ s.idr ≠ 0x50#8 then
        { s with
          sstat := { s.sstat with badid := true }
          diags := s.diags ++ [.badid]
          diagPort := some .badid
          seqPc := s.seqPc + 1#5
          seqPhase := .request }
      else { s with seqPc := s.seqPc + 1#5, seqPhase := .request }) ∧
  (∀ s : State,
    microTurn .conv s =
      if (luxconv s.cfg.ch0ZeroIsFault s.ch0 s.ch1).2 = true then
        { s with
          lux := BitVec.ofNat 16 (luxconv s.cfg.ch0ZeroIsFault s.ch0 s.ch1).1
          sstat := { s.sstat with sfault := true }
          diags := s.diags ++ [.sfault]
          diagPort := some .sfault
          seqPc := s.seqPc + 1#5
          seqPhase := .request }
      else
        { s with
          lux := BitVec.ofNat 16 (luxconv s.cfg.ch0ZeroIsFault s.ch0 s.ch1).1
          seqPc := s.seqPc + 1#5
          seqPhase := .request })

/-! ## The lux converter -/

/-- R195 to R198: a zero CH0 under its flag and a saturated channel give `(0, 1)`, a zero CH0 otherwise `(0, 0)`; for
every other pair the converter is the truncation of the exact real value of the formula, clamped at 0, with `ratio^1.4`
the real power. -/
def Obligations.LuxIsTruncatedRealFormula : Prop :=
  (∀ b : Word, luxconv true 0#16 b = (0, true)) ∧
  (∀ (f : Bool) (a b : Word), a = 0xFFFF#16 ∨ b = 0xFFFF#16 → luxconv f a b = (0, true)) ∧
  (∀ b : Word, b ≠ 0xFFFF#16 → luxconv false 0#16 b = (0, false)) ∧
  ∀ (f : Bool) (a b : Word), a ≠ 0#16 → a ≠ 0xFFFF#16 → b ≠ 0xFFFF#16 →
    ∀ ch0 ch1 ratio : ℝ, ch0 = a.toNat → ch1 = b.toNat → ratio = ch1 / ch0 →
      (luxconv f a b).2 = false ∧
      (ratio ≤ 50 / 100 →
        (luxconv f a b).1 = ⌊max 0 (304 / 10000 * ch0 - 62 / 1000 * ch0 * ratio ^ (14 / 10 : ℝ))⌋₊) ∧
      (50 / 100 < ratio → ratio ≤ 61 / 100 →
        (luxconv f a b).1 = ⌊max 0 (224 / 10000 * ch0 - 31 / 1000 * ch1)⌋₊) ∧
      (61 / 100 < ratio → ratio ≤ 80 / 100 →
        (luxconv f a b).1 = ⌊max 0 (128 / 10000 * ch0 - 153 / 10000 * ch1)⌋₊) ∧
      (80 / 100 < ratio → ratio ≤ 130 / 100 →
        (luxconv f a b).1 = ⌊max 0 (146 / 100000 * ch0 - 112 / 100000 * ch1)⌋₊) ∧
      (130 / 100 < ratio → (luxconv f a b).1 = 0)

/-- R197: ratio exactly 0.50, 0.61, 0.80 and 1.30 select the lower branch, and anything above the next one. -/
def Obligations.LuxBoundariesTakeLowerBranch : Prop :=
  ∀ ch0 ch1 : Nat, 0 < ch0 →
    (luxBranch ch0 ch1 = .b1 ↔ 100 * ch1 ≤ 50 * ch0) ∧
    (luxBranch ch0 ch1 = .b2 ↔ 50 * ch0 < 100 * ch1 ∧ 100 * ch1 ≤ 61 * ch0) ∧
    (luxBranch ch0 ch1 = .b3 ↔ 61 * ch0 < 100 * ch1 ∧ 100 * ch1 ≤ 80 * ch0) ∧
    (luxBranch ch0 ch1 = .b4 ↔ 80 * ch0 < 100 * ch1 ∧ 100 * ch1 ≤ 130 * ch0) ∧
    (luxBranch ch0 ch1 = .b5 ↔ 130 * ch0 < 100 * ch1)

/-- R201: in branch B1 the lux value is the greatest natural number `n` with `A(n) ≥ 0` and
`620^5 · ch1^7 ≤ A(n)^5 · ch0^2`; 0 always qualifies, what is below a qualifying number qualifies, and with `ch1 = 0` the
value is `(304·ch0) div 10000`. -/
def Obligations.LuxFirstBranchIsGreatest : Prop :=
  ∀ ch0 ch1 : Nat, 0 < ch0 → ch0 ≤ 65535 → 2 * ch1 ≤ ch0 →
    ∀ q : Nat → Prop,
      (∀ n, q n ↔ 10000 * n ≤ 304 * ch0 ∧ 620 ^ 5 * ch1 ^ 7 ≤ (304 * ch0 - 10000 * n) ^ 5 * ch0 ^ 2) →
        q (luxValue ch0 ch1) ∧ (∀ n, q n → n ≤ luxValue ch0 ch1) ∧ q 0 ∧ (∀ m n, m ≤ n → q n → q m) ∧
        luxValue ch0 ch1 ≤ 304 * ch0 / 10000 ∧ 304 * ch0 / 10000 ≤ 1992 ∧
        (ch1 = 0 → luxValue ch0 ch1 = 304 * ch0 / 10000)

/-- R205 and R202: a zero CH0 (under `CH0_ZERO_IS_FAULT`) or a saturated channel gives lux 0 and a fault, a zero CH0
under the other setting gives lux 0 and none, and no other pair is a fault; a zero CH1 alone is not. -/
def Obligations.LuxFaultLaw : Prop :=
  ∀ (f : Bool) (ch0 ch1 : Word),
    ((luxconv f ch0 ch1).2 = true ↔ (ch0 = 0#16 ∧ f = true) ∨ ch0 = 0xFFFF#16 ∨ ch1 = 0xFFFF#16) ∧
    ((luxconv f ch0 ch1).2 = true → (luxconv f ch0 ch1).1 = 0) ∧
    (ch0 = 0#16 → (luxconv f ch0 ch1).1 = 0)

/-- R207: `0 ≤ lux ≤ 1992`, `LUXCONV(65534, 0)` reaches the maximum, every branch but the first stays below 453, and
`CONV` puts the value into `LUX` whole. -/
def Obligations.LuxIsAtMost1992 : Prop :=
  (∀ (f : Bool) (ch0 ch1 : Word), (luxconv f ch0 ch1).1 ≤ 1992) ∧
  (∀ f : Bool, luxconv f 65534#16 0#16 = (1992, false)) ∧
  (∀ (f : Bool) (ch0 ch1 : Word), ch0 ≠ 0#16 → luxBranch ch0.toNat ch1.toNat ≠ .b1 → (luxconv f ch0 ch1).1 < 453) ∧
  ∀ s : State, (microTurn .conv s).lux.toNat = (luxconv s.cfg.ch0ZeroIsFault s.ch0 s.ch1).1

/-! ## The host port -/

/-- R23: a host read, in any state and of any register, delivers the register on `h_rdata` and changes nothing else; an
access that does not read leaves it as it was. That `h_rdata` keeps its value then is the model's choice (log entry 7). -/
def Obligations.HostReadHasNoSideEffect : Prop :=
  ∀ (s : State) (p : HostPort),
    (p.re = true → p.we = false → s.hostRead p = { s with hRdata := s.readReg p.addr }) ∧
    (p.re = false → s.hostRead p = s)

/-- R21 with R25, R29, R37 and R47: what each host register number reads as, bit by bit for the flag registers;
narrower registers read zero-extended, 12 to 15 read 0 (R22). -/
def Obligations.HostRegisterMap : Prop :=
  ∀ s : State,
    (∀ k : Nat, (s.readReg 0#4).getLsbD k = match k with
      | 15 => s.i2ccon.on
      | 9 => s.i2ccon.disslw
      | 5 => s.i2ccon.ackdt == 1#1
      | 4 => s.i2ccon.acken
      | 3 => s.i2ccon.rcen
      | 2 => s.i2ccon.pen
      | 1 => s.i2ccon.rsen
      | 0 => s.i2ccon.sen
      | _ => false) ∧
    (∀ k : Nat, (s.readReg 1#4).getLsbD k = match k with
      | 15 => s.i2cstat.ackstat == 1#1
      | 14 => s.i2cstat.trstat
      | 1 => s.i2cstat.rbf
      | _ => false) ∧
    s.readReg 2#4 = s.i2cbrg ∧ s.readReg 3#4 = 0#8 ++ s.i2ctrn ∧ s.readReg 4#4 = 0#8 ++ s.i2crcv ∧
    s.readReg 5#4 = s.cmd ∧
    (∀ k : Nat, k < 6 ∨ 10 < k → (s.readReg 6#4).getLsbD k = match k with
      | 0 => s.sstat.busy
      | 1 => s.sstat.owned
      | 2 => s.sstat.noack
      | 3 => s.sstat.sfault
      | 4 => s.sstat.badid
      | 5 => s.sstat.cmderr
      | 11 => s.sstat.idwarn
      | 12 => s.sstat.ovr
      | _ => false) ∧
    (s.readReg 6#4).extractLsb' 6 2 = (match s.sstat.errc with
      | .none => 0#2
      | .illegalOpcode => 1#2
      | .engineDisabled => 2#2
      | .busState => 3#2) ∧
    (s.readReg 6#4).extractLsb' 8 3 = (match s.sstat.session with
      | .uninitialized => 0#3
      | .poweringUp => 1#3
      | .idValidated => 2#3
      | .idInvalid => 3#3
      | .ready => 4#3) ∧
    s.readReg 7#4 = s.result ∧ s.readReg 8#4 = s.ch0 ∧ s.readReg 9#4 = s.ch1 ∧ s.readReg 10#4 = s.lux ∧
    s.readReg 11#4 = 0#8 ++ s.idr ∧
    ∀ r : BitVec 4, 12 ≤ r.toNat → s.readReg r = 0#16

/-- R24, R306: `ON`, `DISSLW` and `I2CBRG` take a host write while `BUSY = 0` and `OWNED = 0`, and a write at any other
time changes nothing; the other bits written to `I2CCON` are discarded. -/
def Obligations.HostConfiguresOnlyWhenFree : Prop :=
  ∀ (s : State) (v : Word),
    s.hostWrite 0#4 v =
      (if s.sstat.busy = false ∧ s.sstat.owned = false then
        { s with i2ccon := { s.i2ccon with on := v.getLsbD 15, disslw := v.getLsbD 9 } }
      else s) ∧
    s.hostWrite 2#4 v = (if s.sstat.busy = false ∧ s.sstat.owned = false then { s with i2cbrg := v } else s)

/-- R22: a write to a read-only register (1, 3, 4, 6 to 11) or a reserved number (12 to 15) changes nothing and sets no
flag, in any state; a read of a reserved number delivers 0x0000 and sets none either. -/
def Obligations.OtherHostWritesChangeNothing : Prop :=
  ∀ (s : State) (r : BitVec 4) (v : Word),
    (r ≠ 0#4 → r ≠ 2#4 → r ≠ 5#4 → s.hostWrite r v = s) ∧
    (12 ≤ r.toNat → s.hostRead (HostPort.read r) = { s with hRdata := 0x0000#16 })

/-! ## Reset -/

/-- R50 and R290: every register, flag and list after reset. The empty list of divisors is the model's (log entry 22), and
so is that the target too releases both lines, which makes them high (log entry 23). -/
def Obligations.ResetValues : Prop :=
  State.reset.i2ccon.toWord = 0x0000#16 ∧ State.reset.i2cstat.toWord = 0x0000#16 ∧ State.reset.i2cbrg = 0x0000#16 ∧
  State.reset.i2ctrn = 0x00#8 ∧ State.reset.i2crcv = 0x00#8 ∧ State.reset.cmd = 0x0000#16 ∧
  State.reset.sstat.toWord = 0x0000#16 ∧ State.reset.sstat.session = .uninitialized ∧
  State.reset.result = 0x0000#16 ∧ State.reset.ch0 = 0x0000#16 ∧ State.reset.ch1 = 0x0000#16 ∧
  State.reset.lux = 0x0000#16 ∧ State.reset.idr = 0x00#8 ∧ State.reset.seqOp = 0#8 ∧ State.reset.seqArg = 0#8 ∧
  State.reset.seqPc = 0#5 ∧ State.reset.seqLo = 0#8 ∧ State.reset.engAct = some .idle ∧
  State.reset.linesReleased = true ∧ State.reset.lines.scl = true ∧ State.reset.lines.sda = true ∧
  State.reset.trace = [] ∧ State.reset.divisors = [] ∧ State.reset.diags = [] ∧ State.reset.delays = [] ∧
  State.reset.dlyReq = false ∧ State.reset.diagPort = none

/-- R290 and R291: a reset turn, in any state, gives every register, output and list its reset value and emits nothing;
only the static parameters, the input `dly_done`, the turns to come and the counter of free values are as before. -/
def Obligations.ResetTurnFromAnyState : Prop :=
  ∀ (s : State) (rest : List Turn), s.schedule = .reset :: rest →
    step s = .next
      { State.reset with cfg := s.cfg, dlyDone := s.dlyDone, schedule := rest, freeCount := s.freeCount }

/-! ## Invariants -/

/-- The reset state is coherent. -/
def Obligations.ResetIsCoherent : Prop := State.reset.coherent = true

/-- From every coherent state, whatever turns are to come and whatever the target answers, a step gives a coherent
state. -/
def Obligations.StepKeepsCoherence : Prop :=
  ∀ s t : State, s.coherent = true → step s = .next t → t.coherent = true

/-- R28, R138: in a coherent state at most one request is pending, the transmit request counted, and every request is
made with `ON = 1` and `BUSY = 1`; so the two-requests case of U4 is unreachable. -/
def Obligations.AtMostOneRequest : Prop :=
  ∀ s : State, s.coherent = true →
    s.pending.length ≤ 1 ∧ s.engAct.isSome = true ∧
      (s.pending ≠ [] → s.sstat.busy = true ∧ s.i2ccon.on = true)

/-- R93: in a coherent state the bus trace is a prefix of `( S body P )*`, and `OWNED = 1` exactly when an `S` has no `P`
after it. -/
def Obligations.TraceBracketsAgreeWithOwned : Prop :=
  ∀ s : State, s.coherent = true →
    (∃ p, tracePos s.trace = some p ∧ (s.sstat.owned = true ↔ p ≠ .free)) ∧
    (s.sstat.owned = true ↔ ∃ u v, s.trace = u ++ .start :: v ∧ BusEvent.stop ∉ v)

/-- R225: in a coherent state with `BUSY = 0` the session is `Uninitialized` or `Ready`, and the other three are seen only
while `INIT` runs. A turn in a micro-program changes the session only where it completes step 0, 15 or 22 of `INIT` or
step 5 of `PWROFF`; any other turn that changes it is a reset, or the host's issue of one of these two commands. -/
def Obligations.SessionTransitions : Prop :=
  (∀ s : State, s.coherent = true →
    (s.sstat.busy = false → s.sstat.session = .uninitialized ∨ s.sstat.session = .ready) ∧
    (s.sstat.session = .poweringUp ∨ s.sstat.session = .idValidated ∨ s.sstat.session = .idInvalid →
      s.sstat.busy = true ∧ s.seqOp = 0x16#8)) ∧
  (∀ (c : Config) (i : Instr) (t : Turn) (s : State),
    (blockTurn (programOf c i) t s).sstat.session ≠ s.sstat.session →
      t = .sequencer ∧ s.sstat.busy = true ∧ (blockTurn (programOf c i) t s).seqPc = s.seqPc + 1#5 ∧
        (i.opcode = 0x16#8 ∧ (s.seqPc = 0#5 ∨ s.seqPc = 15#5 ∨ s.seqPc = 22#5) ∨
          i.opcode = 0x11#8 ∧ s.seqPc = 5#5)) ∧
  ∀ (s u : State) (t : Turn), turn t s = .next u → u.sstat.session ≠ s.sstat.session →
    t = .reset ∨
    (t = .sequencer ∧ s.sstat.busy = true ∧
      (s.seqOp = 0x16#8 ∧ (s.seqPc = 0#5 ∨ s.seqPc = 15#5 ∨ s.seqPc = 22#5) ∨ s.seqOp = 0x11#8 ∧ s.seqPc = 5#5)) ∨
    ∃ p i, t = .host p ∧ p.we = true ∧ p.addr = 5#4 ∧ decode p.wdata = .ok i ∧ s.sstat.busy = false ∧
      (i.opcode = 0x16#8 ∨ i.opcode = 0x11#8)

/-- R12: no step changes the parameters. -/
def Obligations.ParametersNeverChange : Prop :=
  ∀ s t : State, step s = .next t → t.cfg = s.cfg

/-- R87: but for reset, a step only appends to the bus trace, the diagnostic list and the delay-request list; and so to
the divisors noted beside the trace, so that a later write of `I2CBRG` leaves those of earlier events (log entry 22). -/
def Obligations.TracesOnlyGrow : Prop :=
  ∀ s t : State, (∀ rest, s.schedule ≠ .reset :: rest) → step s = .next t →
    s.trace <+: t.trace ∧ s.divisors <+: t.divisors ∧ s.diags <+: t.diags ∧ s.delays <+: t.delays

/-! ## Frames, under every schedule -/

/-- The raw commands leave the parameters, the configuration, the result registers but `RESULT`, the session, the delay
port and the host's read data alone; `SFAULT` and `BADID` end clear. That `h_rdata` and `dly_ms` keep their values is the
model's choice (log entries 7 and 9). -/
def Obligations.RawCommandFrame : Prop :=
  ∀ (i : Instr) (s t : State),
    (match i with
      | .start _ => True
      | .restart _ => True
      | .send _ => True
      | .recv _ _ => True
      | .stop _ => True
      | _ => False) →
    exec i s = .next t →
      t.cfg = s.cfg ∧ t.i2cbrg = s.i2cbrg ∧ t.i2ccon.on = s.i2ccon.on ∧ t.i2ccon.disslw = s.i2ccon.disslw ∧
      t.ch0 = s.ch0 ∧ t.ch1 = s.ch1 ∧ t.lux = s.lux ∧ t.idr = s.idr ∧ t.seqLo = s.seqLo ∧
      t.sstat.session = s.sstat.session ∧ t.sstat.idwarn = s.sstat.idwarn ∧ t.dlyReq = s.dlyReq ∧
      t.dlyMs = s.dlyMs ∧ t.delays = s.delays ∧ t.hRdata = s.hRdata ∧ t.freeCount = s.freeCount ∧
      (s.sstat.busy = false → t.sstat.ovr = s.sstat.ovr ∧ t.sstat.sfault = false ∧ t.sstat.badid = false)

/-- What of the bus engine the raw commands leave alone, when no request is pending at the start (as in every coherent
state with `BUSY = 0`): `START`, `RESTART` and `STOP` move no byte; `SEND` receives nothing; `RECV` sends nothing. -/
def Obligations.RawCommandBusFrame : Prop :=
  ∀ (s t : State) (operand b : Byte) (unused : BitVec 7) (n : Bit), (s.sstat.busy = false → s.pending = []) →
    (exec (.start operand) s = .next t ∨ exec (.restart operand) s = .next t ∨ exec (.stop operand) s = .next t →
      t.i2ctrn = s.i2ctrn ∧ t.i2crcv = s.i2crcv ∧ t.i2cstat = s.i2cstat ∧ t.i2ccon.ackdt = s.i2ccon.ackdt ∧
      t.diags = s.diags) ∧
    (exec (.send b) s = .next t →
      t.i2crcv = s.i2crcv ∧ t.i2cstat.rbf = s.i2cstat.rbf ∧ t.i2ccon = s.i2ccon ∧
      t.sstat.owned = s.sstat.owned) ∧
    (exec (.recv unused n) s = .next t →
      t.i2ctrn = s.i2ctrn ∧ t.i2cstat.ackstat = s.i2cstat.ackstat ∧ t.i2cstat.trstat = s.i2cstat.trstat ∧
      t.sstat.owned = s.sstat.owned ∧ t.diags = s.diags)

/-- The register writes `PWRON`, `PWROFF` and `SETTIM` leave every result register but `RESULT`, what was received, the
configuration and the delay port alone, and the session too, but for `PWROFF` (R176, R226). That `h_rdata` and `dly_ms`
keep their values is the model's choice (log entries 7 and 9). -/
def Obligations.RegisterWriteFrame : Prop :=
  ∀ (i : Instr) (s t : State), (s.sstat.busy = false → s.pending = []) →
    (match i with
      | .pwron _ => True
      | .pwroff _ => True
      | .settim _ => True
      | _ => False) →
    exec i s = .next t →
      t.cfg = s.cfg ∧ t.i2cbrg = s.i2cbrg ∧ t.i2ccon.on = s.i2ccon.on ∧ t.i2ccon.disslw = s.i2ccon.disslw ∧
      t.i2ccon.ackdt = s.i2ccon.ackdt ∧ t.i2crcv = s.i2crcv ∧ t.i2cstat.rbf = s.i2cstat.rbf ∧
      t.ch0 = s.ch0 ∧ t.ch1 = s.ch1 ∧ t.lux = s.lux ∧ t.idr = s.idr ∧ t.seqLo = s.seqLo ∧
      t.dlyReq = s.dlyReq ∧ t.dlyMs = s.dlyMs ∧ t.delays = s.delays ∧ t.hRdata = s.hRdata ∧
      t.freeCount = s.freeCount ∧
      (s.sstat.busy = false → t.sstat.ovr = s.sstat.ovr ∧ t.sstat.sfault = false ∧ t.sstat.badid = false) ∧
      ((∀ x, i ≠ .pwroff x) → t.sstat.session = s.sstat.session ∧ t.sstat.idwarn = s.sstat.idwarn)

/-- The register reads leave the configuration, the session (R226), the delay port and the other result registers alone:
`RDID` writes `IDR`, `RDCH` its channel and `SEQ.lo`, `RDLUX` both channels, `LUX` and `SEQ.lo`. That `h_rdata` and
`dly_ms` keep their values is the model's choice (log entries 7 and 9). -/
def Obligations.RegisterReadFrame : Prop :=
  ∀ (i : Instr) (s t : State),
    (match i with
      | .rdid _ => True
      | .rdch _ _ => True
      | .rdlux _ => True
      | _ => False) →
    exec i s = .next t →
      t.cfg = s.cfg ∧ t.i2cbrg = s.i2cbrg ∧ t.i2ccon.on = s.i2ccon.on ∧ t.i2ccon.disslw = s.i2ccon.disslw ∧
      t.sstat.session = s.sstat.session ∧ t.sstat.idwarn = s.sstat.idwarn ∧ t.dlyReq = s.dlyReq ∧
      t.dlyMs = s.dlyMs ∧ t.delays = s.delays ∧ t.hRdata = s.hRdata ∧ t.freeCount = s.freeCount ∧
      (s.sstat.busy = false → t.sstat.ovr = s.sstat.ovr) ∧
      (∀ x, i = .rdid x → t.ch0 = s.ch0 ∧ t.ch1 = s.ch1 ∧ t.lux = s.lux ∧ t.seqLo = s.seqLo ∧
        (s.sstat.busy = false → t.sstat.sfault = false)) ∧
      (∀ u c, i = .rdch u c → t.lux = s.lux ∧ t.idr = s.idr ∧ (c = 0#1 → t.ch1 = s.ch1) ∧ (c = 1#1 → t.ch0 = s.ch0) ∧
        (s.sstat.busy = false → t.sstat.sfault = false ∧ t.sstat.badid = false)) ∧
      (∀ x, i = .rdlux x → t.idr = s.idr ∧ (s.sstat.busy = false → t.sstat.badid = false))

/-- `INIT` leaves the configuration, the channels, `LUX`, `SEQ.lo` and the host's read data alone. That `h_rdata` keeps its
value is the model's choice (log entry 7). -/
def Obligations.InitFrame : Prop :=
  ∀ (operand : Byte) (s t : State), exec (.init operand) s = .next t →
    t.cfg = s.cfg ∧ t.i2cbrg = s.i2cbrg ∧ t.i2ccon.on = s.i2ccon.on ∧ t.i2ccon.disslw = s.i2ccon.disslw ∧
    t.ch0 = s.ch0 ∧ t.ch1 = s.ch1 ∧ t.lux = s.lux ∧ t.seqLo = s.seqLo ∧ t.hRdata = s.hRdata ∧
    t.freeCount = s.freeCount ∧
    (s.sstat.busy = false → t.sstat.ovr = s.sstat.ovr ∧ t.sstat.sfault = false)

/-! ## Refinements -/

/-- Running a command inside `exec` is taking its turns one step at a time: from the state in which the command is just
accepted, some number of steps leads to the same next state, so every host access between two turns sees what the
rules say. -/
def Obligations.CommandRunsTurnByTurn : Prop :=
  ∀ (i : Instr) (s t : State), s.sstat.busy = false → s.i2ccon.on = true → violates i s = false →
    exec i s = .next t →
      ∃ k, Sys2Proof.core.run k ((s.examine (encode i)).accept i.opcode i.operand) = .next t

/-- R123: each sensor command, `INIT` among them, leaves the bus trace, the `NOACK` diagnostics, the bus-engine registers
and `OWNED` as the raw commands of its micro-program do, issued one by one by the host and given the same answers; its
`NOACK` is the OR of theirs, no part of either is refused, and `OVR` is the same. -/
def Obligations.SensorCommandEqualsRawExpansion : Prop :=
  ∀ (i : Instr) (s : State) (xs : List Answer) (rest : List Turn) (r : Nat → State) (t : State),
    0x10 ≤ i.opcode.toNat → s.ready = true → s.sstat.owned = false →
    ((programOf s.cfg i).map MicroStep.completions).sum ≤ xs.length →
    Sys2Proof.core.run 1
      { s with schedule := .host (HostPort.write cmdReg (encode i)) :: grant (programOf s.cfg i) xs ++ rest } = .next t →
    (∀ k, k ≤ rawCount (programOf s.cfg i) →
      Sys2Proof.core.run k { s with schedule := rawSchedule s.cfg (programOf s.cfg i) xs ++ rest } = .next (r k)) →
      t.trace = (r (rawCount (programOf s.cfg i))).trace ∧
      t.divisors = (r (rawCount (programOf s.cfg i))).divisors ∧
      t.diags.filter (fun d => d == .noack) =
        (r (rawCount (programOf s.cfg i))).diags.filter (fun d => d == .noack) ∧
      t.i2ccon = (r (rawCount (programOf s.cfg i))).i2ccon ∧ t.i2cstat = (r (rawCount (programOf s.cfg i))).i2cstat ∧
      t.i2ctrn = (r (rawCount (programOf s.cfg i))).i2ctrn ∧ t.i2crcv = (r (rawCount (programOf s.cfg i))).i2crcv ∧
      t.sstat.owned = (r (rawCount (programOf s.cfg i))).sstat.owned ∧
      t.sstat.ovr = (r (rawCount (programOf s.cfg i))).sstat.ovr ∧
      t.schedule = (r (rawCount (programOf s.cfg i))).schedule ∧
      (t.sstat.noack = true ↔ ∃ k, k < rawCount (programOf s.cfg i) ∧ (r (k + 1)).sstat.noack = true) ∧
      t.sstat.busy = false ∧ t.sstat.cmderr = false ∧
      ∀ k, k < rawCount (programOf s.cfg i) → (r (k + 1)).sstat.busy = false ∧ (r (k + 1)).sstat.cmderr = false

/-- R248: scanning the waveform of a bus trace gives the trace back, for every trace in the language of R93 whose last
received byte has its acknowledgment. With no transaction open the waveform ends with both lines released (R243), inside
one it ends with `SCL` low (R241, R242, R244), and so stand the lines of a coherent state between two operations. The
waveform is general knowledge, not the source's, and the half clocks of `Sr`, the place of a bit's closing edge and the
resting lines are the model's (log entries 14, 20 and 21), and so is that the target releases both lines while the block
does, a reset in mid-transaction (U16) included (log entry 23). -/
def Obligations.ScanRecoversTheTrace : Prop :=
  (∀ tr : List BusEvent, (tracePos tr = some .free ∨ tracePos tr = some .held) → scan (waveform tr) = tr) ∧
  (∀ tr : List BusEvent, tracePos tr = some .free → (waveform tr).getLast? = some Sample.released) ∧
  (∀ tr : List BusEvent, (tracePos tr = some .held ∨ tracePos tr = some .byteIn) →
    (waveform tr).getLast?.map Sample.scl = some false) ∧
  ∀ s : State, s.coherent = true →
    (s.sstat.owned = false → s.lines.scl = true ∧ s.lines.sda = true) ∧
    (s.sstat.owned = true → s.i2ccon.on = true → s.lines.scl = false)

/-- R249, R250: holding each sample for any further time, a target that holds `SCL` low after the master has released
it, and the half clocks of any divisors, do not change the events the scan finds (log entries 14 and 22). -/
def Obligations.StretchingDoesNotChangeTheEvents : Prop :=
  (∀ w : List (Sample × Nat × Nat), scan (stretched true w) = scan (w.map Prod.fst)) ∧
  ∀ (s : State) (half : Word → Nat), s.divisors.length = s.trace.length → (∀ d ∈ s.divisors, 0 < half d) →
    scan (s.waveformAtRate half) = scan s.waveform
end

