-- ==== Sys2Proof/Laws/Decode.lean ====
section
/-! SUPPORT. The fields of a command word: taking them apart and putting them together are inverse, and each
instruction's opcode selects its own constructor. -/

namespace Sys2Proof

@[simp] theorem opcodeOf_commandWord (o a : Byte) : opcodeOf (commandWord o a) = o :=
  BitVec.extractLsb'_append_eq_left

@[simp] theorem operandOf_commandWord (o a : Byte) : operandOf (commandWord o a) = a :=
  BitVec.extractLsb'_append_eq_right

@[simp] theorem commandWord_of_fields (w : Word) : commandWord (opcodeOf w) (operandOf w) = w :=
  (BitVec.extractLsb'_append_extractLsb'_eq_extractLsb' (by decide)).trans BitVec.extractLsb'_eq_self

@[simp] theorem highBits_append (u : BitVec 7) (n : Bit) : highBits (u ++ n) = u :=
  BitVec.extractLsb'_append_eq_left

@[simp] theorem lowBit_append (u : BitVec 7) (n : Bit) : lowBit (u ++ n) = n :=
  BitVec.extractLsb'_append_eq_right

@[simp] theorem operand_of_bits (a : Byte) : (highBits a ++ lowBit a : BitVec (7 + 1)) = a :=
  (BitVec.extractLsb'_append_extractLsb'_eq_extractLsb' (by decide)).trans BitVec.extractLsb'_eq_self

/-- The opcode and operand that an instruction puts into its word select that instruction again. -/
theorem decodeFields_of_instr (i : Instr) : decodeFields i.opcode i.operand = .ok i := by
  cases i with
  | recv u n => exact congrArg₂ (fun x y => Decoded.ok (.recv x y)) (highBits_append u n) (lowBit_append u n)
  | rdch u c => exact congrArg₂ (fun x y => Decoded.ok (.rdch x y)) (highBits_append u c) (lowBit_append u c)
  | _ => rfl

/-- Every opcode is one of the twelve, and then the instruction has that opcode and that operand, or it is illegal. -/
theorem decodeFields_cases (o a : Byte) :
    (∃ i : Instr, decodeFields o a = .ok i ∧ i.opcode = o ∧ i.operand = a) ∨ decodeFields o a = .illegal o := by
  unfold decodeFields
  split <;> rename_i h
  case h_13 => exact .inr rfl
  case h_4 => exact .inl ⟨_, rfl, BitVec.eq_of_toNat_eq h.symm, operand_of_bits a⟩
  case h_10 => exact .inl ⟨_, rfl, BitVec.eq_of_toNat_eq h.symm, operand_of_bits a⟩
  all_goals exact .inl ⟨_, rfl, BitVec.eq_of_toNat_eq h.symm, rfl⟩

end Sys2Proof
end

