-- ==== Sys2Proof/Laws/State.lean ====
section
/-! SUPPORT. One lemma per field per update of the state: what each named operation of Machine/Ops.lean leaves in each
field, so that no later proof unfolds a record update. -/

namespace Sys2Proof.Machine

variable (s : State)

/-! `emit` (R15). -/

@[simp] theorem State.emit_cfg (e : BusEvent) : (s.emit e).cfg = s.cfg := rfl
@[simp] theorem State.emit_i2ccon (e : BusEvent) : (s.emit e).i2ccon = s.i2ccon := rfl
@[simp] theorem State.emit_i2cstat (e : BusEvent) : (s.emit e).i2cstat = s.i2cstat := rfl
@[simp] theorem State.emit_i2cbrg (e : BusEvent) : (s.emit e).i2cbrg = s.i2cbrg := rfl
@[simp] theorem State.emit_i2ctrn (e : BusEvent) : (s.emit e).i2ctrn = s.i2ctrn := rfl
@[simp] theorem State.emit_i2crcv (e : BusEvent) : (s.emit e).i2crcv = s.i2crcv := rfl
@[simp] theorem State.emit_cmd (e : BusEvent) : (s.emit e).cmd = s.cmd := rfl
@[simp] theorem State.emit_sstat (e : BusEvent) : (s.emit e).sstat = s.sstat := rfl
@[simp] theorem State.emit_result (e : BusEvent) : (s.emit e).result = s.result := rfl
@[simp] theorem State.emit_ch0 (e : BusEvent) : (s.emit e).ch0 = s.ch0 := rfl
@[simp] theorem State.emit_ch1 (e : BusEvent) : (s.emit e).ch1 = s.ch1 := rfl
@[simp] theorem State.emit_lux (e : BusEvent) : (s.emit e).lux = s.lux := rfl
@[simp] theorem State.emit_idr (e : BusEvent) : (s.emit e).idr = s.idr := rfl
@[simp] theorem State.emit_seqOp (e : BusEvent) : (s.emit e).seqOp = s.seqOp := rfl
@[simp] theorem State.emit_seqArg (e : BusEvent) : (s.emit e).seqArg = s.seqArg := rfl
@[simp] theorem State.emit_seqPc (e : BusEvent) : (s.emit e).seqPc = s.seqPc := rfl
@[simp] theorem State.emit_seqLo (e : BusEvent) : (s.emit e).seqLo = s.seqLo := rfl
@[simp] theorem State.emit_seqPhase (e : BusEvent) : (s.emit e).seqPhase = s.seqPhase := rfl
@[simp] theorem State.emit_dlyReq (e : BusEvent) : (s.emit e).dlyReq = s.dlyReq := rfl
@[simp] theorem State.emit_dlyMs (e : BusEvent) : (s.emit e).dlyMs = s.dlyMs := rfl
@[simp] theorem State.emit_dlyDone (e : BusEvent) : (s.emit e).dlyDone = s.dlyDone := rfl
@[simp] theorem State.emit_diagPort (e : BusEvent) : (s.emit e).diagPort = s.diagPort := rfl
@[simp] theorem State.emit_hRdata (e : BusEvent) : (s.emit e).hRdata = s.hRdata := rfl
@[simp] theorem State.emit_trace (e : BusEvent) : (s.emit e).trace = s.trace ++ [e] := rfl
@[simp] theorem State.emit_divisors (e : BusEvent) : (s.emit e).divisors = s.divisors ++ [s.i2cbrg] := rfl
@[simp] theorem State.emit_diags (e : BusEvent) : (s.emit e).diags = s.diags := rfl
@[simp] theorem State.emit_delays (e : BusEvent) : (s.emit e).delays = s.delays := rfl
@[simp] theorem State.emit_schedule (e : BusEvent) : (s.emit e).schedule = s.schedule := rfl
@[simp] theorem State.emit_freeCount (e : BusEvent) : (s.emit e).freeCount = s.freeCount := rfl

/-! `raise` (R268). -/

@[simp] theorem State.raise_cfg (d : Diag) : (s.raise d).cfg = s.cfg := rfl
@[simp] theorem State.raise_i2ccon (d : Diag) : (s.raise d).i2ccon = s.i2ccon := rfl
@[simp] theorem State.raise_i2cstat (d : Diag) : (s.raise d).i2cstat = s.i2cstat := rfl
@[simp] theorem State.raise_i2cbrg (d : Diag) : (s.raise d).i2cbrg = s.i2cbrg := rfl
@[simp] theorem State.raise_i2ctrn (d : Diag) : (s.raise d).i2ctrn = s.i2ctrn := rfl
@[simp] theorem State.raise_i2crcv (d : Diag) : (s.raise d).i2crcv = s.i2crcv := rfl
@[simp] theorem State.raise_cmd (d : Diag) : (s.raise d).cmd = s.cmd := rfl
@[simp] theorem State.raise_sstat (d : Diag) : (s.raise d).sstat = s.sstat.setFlag d := rfl
@[simp] theorem State.raise_result (d : Diag) : (s.raise d).result = s.result := rfl
@[simp] theorem State.raise_ch0 (d : Diag) : (s.raise d).ch0 = s.ch0 := rfl
@[simp] theorem State.raise_ch1 (d : Diag) : (s.raise d).ch1 = s.ch1 := rfl
@[simp] theorem State.raise_lux (d : Diag) : (s.raise d).lux = s.lux := rfl
@[simp] theorem State.raise_idr (d : Diag) : (s.raise d).idr = s.idr := rfl
@[simp] theorem State.raise_seqOp (d : Diag) : (s.raise d).seqOp = s.seqOp := rfl
@[simp] theorem State.raise_seqArg (d : Diag) : (s.raise d).seqArg = s.seqArg := rfl
@[simp] theorem State.raise_seqPc (d : Diag) : (s.raise d).seqPc = s.seqPc := rfl
@[simp] theorem State.raise_seqLo (d : Diag) : (s.raise d).seqLo = s.seqLo := rfl
@[simp] theorem State.raise_seqPhase (d : Diag) : (s.raise d).seqPhase = s.seqPhase := rfl
@[simp] theorem State.raise_dlyReq (d : Diag) : (s.raise d).dlyReq = s.dlyReq := rfl
@[simp] theorem State.raise_dlyMs (d : Diag) : (s.raise d).dlyMs = s.dlyMs := rfl
@[simp] theorem State.raise_dlyDone (d : Diag) : (s.raise d).dlyDone = s.dlyDone := rfl
@[simp] theorem State.raise_diagPort (d : Diag) : (s.raise d).diagPort = some d := rfl
@[simp] theorem State.raise_hRdata (d : Diag) : (s.raise d).hRdata = s.hRdata := rfl
@[simp] theorem State.raise_trace (d : Diag) : (s.raise d).trace = s.trace := rfl
@[simp] theorem State.raise_divisors (d : Diag) : (s.raise d).divisors = s.divisors := rfl
@[simp] theorem State.raise_diags (d : Diag) : (s.raise d).diags = s.diags ++ [d] := rfl
@[simp] theorem State.raise_delays (d : Diag) : (s.raise d).delays = s.delays := rfl
@[simp] theorem State.raise_schedule (d : Diag) : (s.raise d).schedule = s.schedule := rfl
@[simp] theorem State.raise_freeCount (d : Diag) : (s.raise d).freeCount = s.freeCount := rfl

/-! `overrun` (R300). -/

@[simp] theorem State.overrun_cfg : (s.overrun).cfg = s.cfg := rfl
@[simp] theorem State.overrun_i2ccon : (s.overrun).i2ccon = s.i2ccon := rfl
@[simp] theorem State.overrun_i2cstat : (s.overrun).i2cstat = s.i2cstat := rfl
@[simp] theorem State.overrun_i2cbrg : (s.overrun).i2cbrg = s.i2cbrg := rfl
@[simp] theorem State.overrun_i2ctrn : (s.overrun).i2ctrn = s.i2ctrn := rfl
@[simp] theorem State.overrun_i2crcv : (s.overrun).i2crcv = s.i2crcv := rfl
@[simp] theorem State.overrun_cmd : (s.overrun).cmd = s.cmd := rfl
@[simp] theorem State.overrun_sstat : (s.overrun).sstat = { s.sstat with ovr := true } := rfl
@[simp] theorem State.overrun_result : (s.overrun).result = s.result := rfl
@[simp] theorem State.overrun_ch0 : (s.overrun).ch0 = s.ch0 := rfl
@[simp] theorem State.overrun_ch1 : (s.overrun).ch1 = s.ch1 := rfl
@[simp] theorem State.overrun_lux : (s.overrun).lux = s.lux := rfl
@[simp] theorem State.overrun_idr : (s.overrun).idr = s.idr := rfl
@[simp] theorem State.overrun_seqOp : (s.overrun).seqOp = s.seqOp := rfl
@[simp] theorem State.overrun_seqArg : (s.overrun).seqArg = s.seqArg := rfl
@[simp] theorem State.overrun_seqPc : (s.overrun).seqPc = s.seqPc := rfl
@[simp] theorem State.overrun_seqLo : (s.overrun).seqLo = s.seqLo := rfl
@[simp] theorem State.overrun_seqPhase : (s.overrun).seqPhase = s.seqPhase := rfl
@[simp] theorem State.overrun_dlyReq : (s.overrun).dlyReq = s.dlyReq := rfl
@[simp] theorem State.overrun_dlyMs : (s.overrun).dlyMs = s.dlyMs := rfl
@[simp] theorem State.overrun_dlyDone : (s.overrun).dlyDone = s.dlyDone := rfl
@[simp] theorem State.overrun_diagPort : (s.overrun).diagPort = s.diagPort := rfl
@[simp] theorem State.overrun_hRdata : (s.overrun).hRdata = s.hRdata := rfl
@[simp] theorem State.overrun_trace : (s.overrun).trace = s.trace := rfl
@[simp] theorem State.overrun_divisors : (s.overrun).divisors = s.divisors := rfl
@[simp] theorem State.overrun_diags : (s.overrun).diags = s.diags := rfl
@[simp] theorem State.overrun_delays : (s.overrun).delays = s.delays := rfl
@[simp] theorem State.overrun_schedule : (s.overrun).schedule = s.schedule := rfl
@[simp] theorem State.overrun_freeCount : (s.overrun).freeCount = s.freeCount := rfl

/-! `examine` (R114). -/

@[simp] theorem State.examine_cfg (w : Word) : (s.examine w).cfg = s.cfg := rfl
@[simp] theorem State.examine_i2ccon (w : Word) : (s.examine w).i2ccon = s.i2ccon := rfl
@[simp] theorem State.examine_i2cstat (w : Word) : (s.examine w).i2cstat = s.i2cstat := rfl
@[simp] theorem State.examine_i2cbrg (w : Word) : (s.examine w).i2cbrg = s.i2cbrg := rfl
@[simp] theorem State.examine_i2ctrn (w : Word) : (s.examine w).i2ctrn = s.i2ctrn := rfl
@[simp] theorem State.examine_i2crcv (w : Word) : (s.examine w).i2crcv = s.i2crcv := rfl
@[simp] theorem State.examine_cmd (w : Word) : (s.examine w).cmd = w := rfl
@[simp] theorem State.examine_sstat (w : Word) :
    (s.examine w).sstat =
      { s.sstat with noack := false, sfault := false, badid := false, cmderr := false, errc := .none } := rfl
@[simp] theorem State.examine_result (w : Word) : (s.examine w).result = s.result := rfl
@[simp] theorem State.examine_ch0 (w : Word) : (s.examine w).ch0 = s.ch0 := rfl
@[simp] theorem State.examine_ch1 (w : Word) : (s.examine w).ch1 = s.ch1 := rfl
@[simp] theorem State.examine_lux (w : Word) : (s.examine w).lux = s.lux := rfl
@[simp] theorem State.examine_idr (w : Word) : (s.examine w).idr = s.idr := rfl
@[simp] theorem State.examine_seqOp (w : Word) : (s.examine w).seqOp = s.seqOp := rfl
@[simp] theorem State.examine_seqArg (w : Word) : (s.examine w).seqArg = s.seqArg := rfl
@[simp] theorem State.examine_seqPc (w : Word) : (s.examine w).seqPc = s.seqPc := rfl
@[simp] theorem State.examine_seqLo (w : Word) : (s.examine w).seqLo = s.seqLo := rfl
@[simp] theorem State.examine_seqPhase (w : Word) : (s.examine w).seqPhase = s.seqPhase := rfl
@[simp] theorem State.examine_dlyReq (w : Word) : (s.examine w).dlyReq = s.dlyReq := rfl
@[simp] theorem State.examine_dlyMs (w : Word) : (s.examine w).dlyMs = s.dlyMs := rfl
@[simp] theorem State.examine_dlyDone (w : Word) : (s.examine w).dlyDone = s.dlyDone := rfl
@[simp] theorem State.examine_diagPort (w : Word) : (s.examine w).diagPort = s.diagPort := rfl
@[simp] theorem State.examine_hRdata (w : Word) : (s.examine w).hRdata = s.hRdata := rfl
@[simp] theorem State.examine_trace (w : Word) : (s.examine w).trace = s.trace := rfl
@[simp] theorem State.examine_divisors (w : Word) : (s.examine w).divisors = s.divisors := rfl
@[simp] theorem State.examine_diags (w : Word) : (s.examine w).diags = s.diags := rfl
@[simp] theorem State.examine_delays (w : Word) : (s.examine w).delays = s.delays := rfl
@[simp] theorem State.examine_schedule (w : Word) : (s.examine w).schedule = s.schedule := rfl
@[simp] theorem State.examine_freeCount (w : Word) : (s.examine w).freeCount = s.freeCount := rfl

/-! `refuse` (R116). -/

@[simp] theorem State.refuse_cfg (c : Errc) : (s.refuse c).cfg = s.cfg := rfl
@[simp] theorem State.refuse_i2ccon (c : Errc) : (s.refuse c).i2ccon = s.i2ccon := rfl
@[simp] theorem State.refuse_i2cstat (c : Errc) : (s.refuse c).i2cstat = s.i2cstat := rfl
@[simp] theorem State.refuse_i2cbrg (c : Errc) : (s.refuse c).i2cbrg = s.i2cbrg := rfl
@[simp] theorem State.refuse_i2ctrn (c : Errc) : (s.refuse c).i2ctrn = s.i2ctrn := rfl
@[simp] theorem State.refuse_i2crcv (c : Errc) : (s.refuse c).i2crcv = s.i2crcv := rfl
@[simp] theorem State.refuse_cmd (c : Errc) : (s.refuse c).cmd = s.cmd := rfl
@[simp] theorem State.refuse_sstat (c : Errc) : (s.refuse c).sstat = { s.sstat with cmderr := true, errc := c } := rfl
@[simp] theorem State.refuse_result (c : Errc) : (s.refuse c).result = 0#16 := rfl
@[simp] theorem State.refuse_ch0 (c : Errc) : (s.refuse c).ch0 = s.ch0 := rfl
@[simp] theorem State.refuse_ch1 (c : Errc) : (s.refuse c).ch1 = s.ch1 := rfl
@[simp] theorem State.refuse_lux (c : Errc) : (s.refuse c).lux = s.lux := rfl
@[simp] theorem State.refuse_idr (c : Errc) : (s.refuse c).idr = s.idr := rfl
@[simp] theorem State.refuse_seqOp (c : Errc) : (s.refuse c).seqOp = s.seqOp := rfl
@[simp] theorem State.refuse_seqArg (c : Errc) : (s.refuse c).seqArg = s.seqArg := rfl
@[simp] theorem State.refuse_seqPc (c : Errc) : (s.refuse c).seqPc = s.seqPc := rfl
@[simp] theorem State.refuse_seqLo (c : Errc) : (s.refuse c).seqLo = s.seqLo := rfl
@[simp] theorem State.refuse_seqPhase (c : Errc) : (s.refuse c).seqPhase = s.seqPhase := rfl
@[simp] theorem State.refuse_dlyReq (c : Errc) : (s.refuse c).dlyReq = s.dlyReq := rfl
@[simp] theorem State.refuse_dlyMs (c : Errc) : (s.refuse c).dlyMs = s.dlyMs := rfl
@[simp] theorem State.refuse_dlyDone (c : Errc) : (s.refuse c).dlyDone = s.dlyDone := rfl
@[simp] theorem State.refuse_diagPort (c : Errc) : (s.refuse c).diagPort = s.diagPort := rfl
@[simp] theorem State.refuse_hRdata (c : Errc) : (s.refuse c).hRdata = s.hRdata := rfl
@[simp] theorem State.refuse_trace (c : Errc) : (s.refuse c).trace = s.trace := rfl
@[simp] theorem State.refuse_divisors (c : Errc) : (s.refuse c).divisors = s.divisors := rfl
@[simp] theorem State.refuse_diags (c : Errc) : (s.refuse c).diags = s.diags := rfl
@[simp] theorem State.refuse_delays (c : Errc) : (s.refuse c).delays = s.delays := rfl
@[simp] theorem State.refuse_schedule (c : Errc) : (s.refuse c).schedule = s.schedule := rfl
@[simp] theorem State.refuse_freeCount (c : Errc) : (s.refuse c).freeCount = s.freeCount := rfl

/-! `accept` (R41). -/

@[simp] theorem State.accept_cfg (o a : Byte) : (s.accept o a).cfg = s.cfg := rfl
@[simp] theorem State.accept_i2ccon (o a : Byte) : (s.accept o a).i2ccon = s.i2ccon := rfl
@[simp] theorem State.accept_i2cstat (o a : Byte) : (s.accept o a).i2cstat = s.i2cstat := rfl
@[simp] theorem State.accept_i2cbrg (o a : Byte) : (s.accept o a).i2cbrg = s.i2cbrg := rfl
@[simp] theorem State.accept_i2ctrn (o a : Byte) : (s.accept o a).i2ctrn = s.i2ctrn := rfl
@[simp] theorem State.accept_i2crcv (o a : Byte) : (s.accept o a).i2crcv = s.i2crcv := rfl
@[simp] theorem State.accept_cmd (o a : Byte) : (s.accept o a).cmd = s.cmd := rfl
@[simp] theorem State.accept_sstat (o a : Byte) : (s.accept o a).sstat = { s.sstat with busy := true } := rfl
@[simp] theorem State.accept_result (o a : Byte) : (s.accept o a).result = s.result := rfl
@[simp] theorem State.accept_ch0 (o a : Byte) : (s.accept o a).ch0 = s.ch0 := rfl
@[simp] theorem State.accept_ch1 (o a : Byte) : (s.accept o a).ch1 = s.ch1 := rfl
@[simp] theorem State.accept_lux (o a : Byte) : (s.accept o a).lux = s.lux := rfl
@[simp] theorem State.accept_idr (o a : Byte) : (s.accept o a).idr = s.idr := rfl
@[simp] theorem State.accept_seqOp (o a : Byte) : (s.accept o a).seqOp = o := rfl
@[simp] theorem State.accept_seqArg (o a : Byte) : (s.accept o a).seqArg = a := rfl
@[simp] theorem State.accept_seqPc (o a : Byte) : (s.accept o a).seqPc = 0#5 := rfl
@[simp] theorem State.accept_seqLo (o a : Byte) : (s.accept o a).seqLo = s.seqLo := rfl
@[simp] theorem State.accept_seqPhase (o a : Byte) : (s.accept o a).seqPhase = .request := rfl
@[simp] theorem State.accept_dlyReq (o a : Byte) : (s.accept o a).dlyReq = s.dlyReq := rfl
@[simp] theorem State.accept_dlyMs (o a : Byte) : (s.accept o a).dlyMs = s.dlyMs := rfl
@[simp] theorem State.accept_dlyDone (o a : Byte) : (s.accept o a).dlyDone = s.dlyDone := rfl
@[simp] theorem State.accept_diagPort (o a : Byte) : (s.accept o a).diagPort = s.diagPort := rfl
@[simp] theorem State.accept_hRdata (o a : Byte) : (s.accept o a).hRdata = s.hRdata := rfl
@[simp] theorem State.accept_trace (o a : Byte) : (s.accept o a).trace = s.trace := rfl
@[simp] theorem State.accept_divisors (o a : Byte) : (s.accept o a).divisors = s.divisors := rfl
@[simp] theorem State.accept_diags (o a : Byte) : (s.accept o a).diags = s.diags := rfl
@[simp] theorem State.accept_delays (o a : Byte) : (s.accept o a).delays = s.delays := rfl
@[simp] theorem State.accept_schedule (o a : Byte) : (s.accept o a).schedule = s.schedule := rfl
@[simp] theorem State.accept_freeCount (o a : Byte) : (s.accept o a).freeCount = s.freeCount := rfl

/-! `requestStart` (R132). -/

@[simp] theorem State.requestStart_cfg : (s.requestStart).cfg = s.cfg := rfl
@[simp] theorem State.requestStart_i2ccon : (s.requestStart).i2ccon = { s.i2ccon with sen := true } := rfl
@[simp] theorem State.requestStart_i2cstat : (s.requestStart).i2cstat = s.i2cstat := rfl
@[simp] theorem State.requestStart_i2cbrg : (s.requestStart).i2cbrg = s.i2cbrg := rfl
@[simp] theorem State.requestStart_i2ctrn : (s.requestStart).i2ctrn = s.i2ctrn := rfl
@[simp] theorem State.requestStart_i2crcv : (s.requestStart).i2crcv = s.i2crcv := rfl
@[simp] theorem State.requestStart_cmd : (s.requestStart).cmd = s.cmd := rfl
@[simp] theorem State.requestStart_sstat : (s.requestStart).sstat = s.sstat := rfl
@[simp] theorem State.requestStart_result : (s.requestStart).result = s.result := rfl
@[simp] theorem State.requestStart_ch0 : (s.requestStart).ch0 = s.ch0 := rfl
@[simp] theorem State.requestStart_ch1 : (s.requestStart).ch1 = s.ch1 := rfl
@[simp] theorem State.requestStart_lux : (s.requestStart).lux = s.lux := rfl
@[simp] theorem State.requestStart_idr : (s.requestStart).idr = s.idr := rfl
@[simp] theorem State.requestStart_seqOp : (s.requestStart).seqOp = s.seqOp := rfl
@[simp] theorem State.requestStart_seqArg : (s.requestStart).seqArg = s.seqArg := rfl
@[simp] theorem State.requestStart_seqPc : (s.requestStart).seqPc = s.seqPc := rfl
@[simp] theorem State.requestStart_seqLo : (s.requestStart).seqLo = s.seqLo := rfl
@[simp] theorem State.requestStart_seqPhase : (s.requestStart).seqPhase = .wait := rfl
@[simp] theorem State.requestStart_dlyReq : (s.requestStart).dlyReq = s.dlyReq := rfl
@[simp] theorem State.requestStart_dlyMs : (s.requestStart).dlyMs = s.dlyMs := rfl
@[simp] theorem State.requestStart_dlyDone : (s.requestStart).dlyDone = s.dlyDone := rfl
@[simp] theorem State.requestStart_diagPort : (s.requestStart).diagPort = s.diagPort := rfl
@[simp] theorem State.requestStart_hRdata : (s.requestStart).hRdata = s.hRdata := rfl
@[simp] theorem State.requestStart_trace : (s.requestStart).trace = s.trace := rfl
@[simp] theorem State.requestStart_divisors : (s.requestStart).divisors = s.divisors := rfl
@[simp] theorem State.requestStart_diags : (s.requestStart).diags = s.diags := rfl
@[simp] theorem State.requestStart_delays : (s.requestStart).delays = s.delays := rfl
@[simp] theorem State.requestStart_schedule : (s.requestStart).schedule = s.schedule := rfl
@[simp] theorem State.requestStart_freeCount : (s.requestStart).freeCount = s.freeCount := rfl

/-! `requestRestart` (R133). -/

@[simp] theorem State.requestRestart_cfg : (s.requestRestart).cfg = s.cfg := rfl
@[simp] theorem State.requestRestart_i2ccon : (s.requestRestart).i2ccon = { s.i2ccon with rsen := true } := rfl
@[simp] theorem State.requestRestart_i2cstat : (s.requestRestart).i2cstat = s.i2cstat := rfl
@[simp] theorem State.requestRestart_i2cbrg : (s.requestRestart).i2cbrg = s.i2cbrg := rfl
@[simp] theorem State.requestRestart_i2ctrn : (s.requestRestart).i2ctrn = s.i2ctrn := rfl
@[simp] theorem State.requestRestart_i2crcv : (s.requestRestart).i2crcv = s.i2crcv := rfl
@[simp] theorem State.requestRestart_cmd : (s.requestRestart).cmd = s.cmd := rfl
@[simp] theorem State.requestRestart_sstat : (s.requestRestart).sstat = s.sstat := rfl
@[simp] theorem State.requestRestart_result : (s.requestRestart).result = s.result := rfl
@[simp] theorem State.requestRestart_ch0 : (s.requestRestart).ch0 = s.ch0 := rfl
@[simp] theorem State.requestRestart_ch1 : (s.requestRestart).ch1 = s.ch1 := rfl
@[simp] theorem State.requestRestart_lux : (s.requestRestart).lux = s.lux := rfl
@[simp] theorem State.requestRestart_idr : (s.requestRestart).idr = s.idr := rfl
@[simp] theorem State.requestRestart_seqOp : (s.requestRestart).seqOp = s.seqOp := rfl
@[simp] theorem State.requestRestart_seqArg : (s.requestRestart).seqArg = s.seqArg := rfl
@[simp] theorem State.requestRestart_seqPc : (s.requestRestart).seqPc = s.seqPc := rfl
@[simp] theorem State.requestRestart_seqLo : (s.requestRestart).seqLo = s.seqLo := rfl
@[simp] theorem State.requestRestart_seqPhase : (s.requestRestart).seqPhase = .wait := rfl
@[simp] theorem State.requestRestart_dlyReq : (s.requestRestart).dlyReq = s.dlyReq := rfl
@[simp] theorem State.requestRestart_dlyMs : (s.requestRestart).dlyMs = s.dlyMs := rfl
@[simp] theorem State.requestRestart_dlyDone : (s.requestRestart).dlyDone = s.dlyDone := rfl
@[simp] theorem State.requestRestart_diagPort : (s.requestRestart).diagPort = s.diagPort := rfl
@[simp] theorem State.requestRestart_hRdata : (s.requestRestart).hRdata = s.hRdata := rfl
@[simp] theorem State.requestRestart_trace : (s.requestRestart).trace = s.trace := rfl
@[simp] theorem State.requestRestart_divisors : (s.requestRestart).divisors = s.divisors := rfl
@[simp] theorem State.requestRestart_diags : (s.requestRestart).diags = s.diags := rfl
@[simp] theorem State.requestRestart_delays : (s.requestRestart).delays = s.delays := rfl
@[simp] theorem State.requestRestart_schedule : (s.requestRestart).schedule = s.schedule := rfl
@[simp] theorem State.requestRestart_freeCount : (s.requestRestart).freeCount = s.freeCount := rfl

/-! `requestStop` (R134). -/

@[simp] theorem State.requestStop_cfg : (s.requestStop).cfg = s.cfg := rfl
@[simp] theorem State.requestStop_i2ccon : (s.requestStop).i2ccon = { s.i2ccon with pen := true } := rfl
@[simp] theorem State.requestStop_i2cstat : (s.requestStop).i2cstat = s.i2cstat := rfl
@[simp] theorem State.requestStop_i2cbrg : (s.requestStop).i2cbrg = s.i2cbrg := rfl
@[simp] theorem State.requestStop_i2ctrn : (s.requestStop).i2ctrn = s.i2ctrn := rfl
@[simp] theorem State.requestStop_i2crcv : (s.requestStop).i2crcv = s.i2crcv := rfl
@[simp] theorem State.requestStop_cmd : (s.requestStop).cmd = s.cmd := rfl
@[simp] theorem State.requestStop_sstat : (s.requestStop).sstat = s.sstat := rfl
@[simp] theorem State.requestStop_result : (s.requestStop).result = s.result := rfl
@[simp] theorem State.requestStop_ch0 : (s.requestStop).ch0 = s.ch0 := rfl
@[simp] theorem State.requestStop_ch1 : (s.requestStop).ch1 = s.ch1 := rfl
@[simp] theorem State.requestStop_lux : (s.requestStop).lux = s.lux := rfl
@[simp] theorem State.requestStop_idr : (s.requestStop).idr = s.idr := rfl
@[simp] theorem State.requestStop_seqOp : (s.requestStop).seqOp = s.seqOp := rfl
@[simp] theorem State.requestStop_seqArg : (s.requestStop).seqArg = s.seqArg := rfl
@[simp] theorem State.requestStop_seqPc : (s.requestStop).seqPc = s.seqPc := rfl
@[simp] theorem State.requestStop_seqLo : (s.requestStop).seqLo = s.seqLo := rfl
@[simp] theorem State.requestStop_seqPhase : (s.requestStop).seqPhase = .wait := rfl
@[simp] theorem State.requestStop_dlyReq : (s.requestStop).dlyReq = s.dlyReq := rfl
@[simp] theorem State.requestStop_dlyMs : (s.requestStop).dlyMs = s.dlyMs := rfl
@[simp] theorem State.requestStop_dlyDone : (s.requestStop).dlyDone = s.dlyDone := rfl
@[simp] theorem State.requestStop_diagPort : (s.requestStop).diagPort = s.diagPort := rfl
@[simp] theorem State.requestStop_hRdata : (s.requestStop).hRdata = s.hRdata := rfl
@[simp] theorem State.requestStop_trace : (s.requestStop).trace = s.trace := rfl
@[simp] theorem State.requestStop_divisors : (s.requestStop).divisors = s.divisors := rfl
@[simp] theorem State.requestStop_diags : (s.requestStop).diags = s.diags := rfl
@[simp] theorem State.requestStop_delays : (s.requestStop).delays = s.delays := rfl
@[simp] theorem State.requestStop_schedule : (s.requestStop).schedule = s.schedule := rfl
@[simp] theorem State.requestStop_freeCount : (s.requestStop).freeCount = s.freeCount := rfl

/-! `requestSend` (R135). -/

@[simp] theorem State.requestSend_cfg (b : Byte) : (s.requestSend b).cfg = s.cfg := rfl
@[simp] theorem State.requestSend_i2ccon (b : Byte) : (s.requestSend b).i2ccon = s.i2ccon := rfl
@[simp] theorem State.requestSend_i2cstat (b : Byte) :
    (s.requestSend b).i2cstat =
      { s.i2cstat with trstat := true } := rfl
@[simp] theorem State.requestSend_i2cbrg (b : Byte) : (s.requestSend b).i2cbrg = s.i2cbrg := rfl
@[simp] theorem State.requestSend_i2ctrn (b : Byte) : (s.requestSend b).i2ctrn = b := rfl
@[simp] theorem State.requestSend_i2crcv (b : Byte) : (s.requestSend b).i2crcv = s.i2crcv := rfl
@[simp] theorem State.requestSend_cmd (b : Byte) : (s.requestSend b).cmd = s.cmd := rfl
@[simp] theorem State.requestSend_sstat (b : Byte) : (s.requestSend b).sstat = s.sstat := rfl
@[simp] theorem State.requestSend_result (b : Byte) : (s.requestSend b).result = s.result := rfl
@[simp] theorem State.requestSend_ch0 (b : Byte) : (s.requestSend b).ch0 = s.ch0 := rfl
@[simp] theorem State.requestSend_ch1 (b : Byte) : (s.requestSend b).ch1 = s.ch1 := rfl
@[simp] theorem State.requestSend_lux (b : Byte) : (s.requestSend b).lux = s.lux := rfl
@[simp] theorem State.requestSend_idr (b : Byte) : (s.requestSend b).idr = s.idr := rfl
@[simp] theorem State.requestSend_seqOp (b : Byte) : (s.requestSend b).seqOp = s.seqOp := rfl
@[simp] theorem State.requestSend_seqArg (b : Byte) : (s.requestSend b).seqArg = s.seqArg := rfl
@[simp] theorem State.requestSend_seqPc (b : Byte) : (s.requestSend b).seqPc = s.seqPc := rfl
@[simp] theorem State.requestSend_seqLo (b : Byte) : (s.requestSend b).seqLo = s.seqLo := rfl
@[simp] theorem State.requestSend_seqPhase (b : Byte) : (s.requestSend b).seqPhase = .wait := rfl
@[simp] theorem State.requestSend_dlyReq (b : Byte) : (s.requestSend b).dlyReq = s.dlyReq := rfl
@[simp] theorem State.requestSend_dlyMs (b : Byte) : (s.requestSend b).dlyMs = s.dlyMs := rfl
@[simp] theorem State.requestSend_dlyDone (b : Byte) : (s.requestSend b).dlyDone = s.dlyDone := rfl
@[simp] theorem State.requestSend_diagPort (b : Byte) : (s.requestSend b).diagPort = s.diagPort := rfl
@[simp] theorem State.requestSend_hRdata (b : Byte) : (s.requestSend b).hRdata = s.hRdata := rfl
@[simp] theorem State.requestSend_trace (b : Byte) : (s.requestSend b).trace = s.trace := rfl
@[simp] theorem State.requestSend_divisors (b : Byte) : (s.requestSend b).divisors = s.divisors := rfl
@[simp] theorem State.requestSend_diags (b : Byte) : (s.requestSend b).diags = s.diags := rfl
@[simp] theorem State.requestSend_delays (b : Byte) : (s.requestSend b).delays = s.delays := rfl
@[simp] theorem State.requestSend_schedule (b : Byte) : (s.requestSend b).schedule = s.schedule := rfl
@[simp] theorem State.requestSend_freeCount (b : Byte) : (s.requestSend b).freeCount = s.freeCount := rfl

/-! `requestReceive` (R136). -/

@[simp] theorem State.requestReceive_cfg : (s.requestReceive).cfg = s.cfg := rfl
@[simp] theorem State.requestReceive_i2ccon : (s.requestReceive).i2ccon = { s.i2ccon with rcen := true } := rfl
@[simp] theorem State.requestReceive_i2cstat : (s.requestReceive).i2cstat = s.i2cstat := rfl
@[simp] theorem State.requestReceive_i2cbrg : (s.requestReceive).i2cbrg = s.i2cbrg := rfl
@[simp] theorem State.requestReceive_i2ctrn : (s.requestReceive).i2ctrn = s.i2ctrn := rfl
@[simp] theorem State.requestReceive_i2crcv : (s.requestReceive).i2crcv = s.i2crcv := rfl
@[simp] theorem State.requestReceive_cmd : (s.requestReceive).cmd = s.cmd := rfl
@[simp] theorem State.requestReceive_sstat : (s.requestReceive).sstat = s.sstat := rfl
@[simp] theorem State.requestReceive_result : (s.requestReceive).result = s.result := rfl
@[simp] theorem State.requestReceive_ch0 : (s.requestReceive).ch0 = s.ch0 := rfl
@[simp] theorem State.requestReceive_ch1 : (s.requestReceive).ch1 = s.ch1 := rfl
@[simp] theorem State.requestReceive_lux : (s.requestReceive).lux = s.lux := rfl
@[simp] theorem State.requestReceive_idr : (s.requestReceive).idr = s.idr := rfl
@[simp] theorem State.requestReceive_seqOp : (s.requestReceive).seqOp = s.seqOp := rfl
@[simp] theorem State.requestReceive_seqArg : (s.requestReceive).seqArg = s.seqArg := rfl
@[simp] theorem State.requestReceive_seqPc : (s.requestReceive).seqPc = s.seqPc := rfl
@[simp] theorem State.requestReceive_seqLo : (s.requestReceive).seqLo = s.seqLo := rfl
@[simp] theorem State.requestReceive_seqPhase : (s.requestReceive).seqPhase = .wait := rfl
@[simp] theorem State.requestReceive_dlyReq : (s.requestReceive).dlyReq = s.dlyReq := rfl
@[simp] theorem State.requestReceive_dlyMs : (s.requestReceive).dlyMs = s.dlyMs := rfl
@[simp] theorem State.requestReceive_dlyDone : (s.requestReceive).dlyDone = s.dlyDone := rfl
@[simp] theorem State.requestReceive_diagPort : (s.requestReceive).diagPort = s.diagPort := rfl
@[simp] theorem State.requestReceive_hRdata : (s.requestReceive).hRdata = s.hRdata := rfl
@[simp] theorem State.requestReceive_trace : (s.requestReceive).trace = s.trace := rfl
@[simp] theorem State.requestReceive_divisors : (s.requestReceive).divisors = s.divisors := rfl
@[simp] theorem State.requestReceive_diags : (s.requestReceive).diags = s.diags := rfl
@[simp] theorem State.requestReceive_delays : (s.requestReceive).delays = s.delays := rfl
@[simp] theorem State.requestReceive_schedule : (s.requestReceive).schedule = s.schedule := rfl
@[simp] theorem State.requestReceive_freeCount : (s.requestReceive).freeCount = s.freeCount := rfl

/-! `requestAck` (R137, R146). -/

@[simp] theorem State.requestAck_cfg (n : Bit) : (s.requestAck n).cfg = s.cfg := rfl
@[simp] theorem State.requestAck_i2ccon (n : Bit) :
    (s.requestAck n).i2ccon =
      { s.i2ccon with ackdt := n, acken := true } := rfl
@[simp] theorem State.requestAck_i2cstat (n : Bit) : (s.requestAck n).i2cstat = { s.i2cstat with rbf := false } := rfl
@[simp] theorem State.requestAck_i2cbrg (n : Bit) : (s.requestAck n).i2cbrg = s.i2cbrg := rfl
@[simp] theorem State.requestAck_i2ctrn (n : Bit) : (s.requestAck n).i2ctrn = s.i2ctrn := rfl
@[simp] theorem State.requestAck_i2crcv (n : Bit) : (s.requestAck n).i2crcv = s.i2crcv := rfl
@[simp] theorem State.requestAck_cmd (n : Bit) : (s.requestAck n).cmd = s.cmd := rfl
@[simp] theorem State.requestAck_sstat (n : Bit) : (s.requestAck n).sstat = s.sstat := rfl
@[simp] theorem State.requestAck_result (n : Bit) : (s.requestAck n).result = s.result := rfl
@[simp] theorem State.requestAck_ch0 (n : Bit) : (s.requestAck n).ch0 = s.ch0 := rfl
@[simp] theorem State.requestAck_ch1 (n : Bit) : (s.requestAck n).ch1 = s.ch1 := rfl
@[simp] theorem State.requestAck_lux (n : Bit) : (s.requestAck n).lux = s.lux := rfl
@[simp] theorem State.requestAck_idr (n : Bit) : (s.requestAck n).idr = s.idr := rfl
@[simp] theorem State.requestAck_seqOp (n : Bit) : (s.requestAck n).seqOp = s.seqOp := rfl
@[simp] theorem State.requestAck_seqArg (n : Bit) : (s.requestAck n).seqArg = s.seqArg := rfl
@[simp] theorem State.requestAck_seqPc (n : Bit) : (s.requestAck n).seqPc = s.seqPc := rfl
@[simp] theorem State.requestAck_seqLo (n : Bit) : (s.requestAck n).seqLo = s.seqLo := rfl
@[simp] theorem State.requestAck_seqPhase (n : Bit) : (s.requestAck n).seqPhase = .ackWait := rfl
@[simp] theorem State.requestAck_dlyReq (n : Bit) : (s.requestAck n).dlyReq = s.dlyReq := rfl
@[simp] theorem State.requestAck_dlyMs (n : Bit) : (s.requestAck n).dlyMs = s.dlyMs := rfl
@[simp] theorem State.requestAck_dlyDone (n : Bit) : (s.requestAck n).dlyDone = s.dlyDone := rfl
@[simp] theorem State.requestAck_diagPort (n : Bit) : (s.requestAck n).diagPort = s.diagPort := rfl
@[simp] theorem State.requestAck_hRdata (n : Bit) : (s.requestAck n).hRdata = s.hRdata := rfl
@[simp] theorem State.requestAck_trace (n : Bit) : (s.requestAck n).trace = s.trace := rfl
@[simp] theorem State.requestAck_divisors (n : Bit) : (s.requestAck n).divisors = s.divisors := rfl
@[simp] theorem State.requestAck_diags (n : Bit) : (s.requestAck n).diags = s.diags := rfl
@[simp] theorem State.requestAck_delays (n : Bit) : (s.requestAck n).delays = s.delays := rfl
@[simp] theorem State.requestAck_schedule (n : Bit) : (s.requestAck n).schedule = s.schedule := rfl
@[simp] theorem State.requestAck_freeCount (n : Bit) : (s.requestAck n).freeCount = s.freeCount := rfl

/-! `requestDelay` (R279). -/

@[simp] theorem State.requestDelay_cfg (ms : BitVec 10) : (s.requestDelay ms).cfg = s.cfg := rfl
@[simp] theorem State.requestDelay_i2ccon (ms : BitVec 10) : (s.requestDelay ms).i2ccon = s.i2ccon := rfl
@[simp] theorem State.requestDelay_i2cstat (ms : BitVec 10) : (s.requestDelay ms).i2cstat = s.i2cstat := rfl
@[simp] theorem State.requestDelay_i2cbrg (ms : BitVec 10) : (s.requestDelay ms).i2cbrg = s.i2cbrg := rfl
@[simp] theorem State.requestDelay_i2ctrn (ms : BitVec 10) : (s.requestDelay ms).i2ctrn = s.i2ctrn := rfl
@[simp] theorem State.requestDelay_i2crcv (ms : BitVec 10) : (s.requestDelay ms).i2crcv = s.i2crcv := rfl
@[simp] theorem State.requestDelay_cmd (ms : BitVec 10) : (s.requestDelay ms).cmd = s.cmd := rfl
@[simp] theorem State.requestDelay_sstat (ms : BitVec 10) : (s.requestDelay ms).sstat = s.sstat := rfl
@[simp] theorem State.requestDelay_result (ms : BitVec 10) : (s.requestDelay ms).result = s.result := rfl
@[simp] theorem State.requestDelay_ch0 (ms : BitVec 10) : (s.requestDelay ms).ch0 = s.ch0 := rfl
@[simp] theorem State.requestDelay_ch1 (ms : BitVec 10) : (s.requestDelay ms).ch1 = s.ch1 := rfl
@[simp] theorem State.requestDelay_lux (ms : BitVec 10) : (s.requestDelay ms).lux = s.lux := rfl
@[simp] theorem State.requestDelay_idr (ms : BitVec 10) : (s.requestDelay ms).idr = s.idr := rfl
@[simp] theorem State.requestDelay_seqOp (ms : BitVec 10) : (s.requestDelay ms).seqOp = s.seqOp := rfl
@[simp] theorem State.requestDelay_seqArg (ms : BitVec 10) : (s.requestDelay ms).seqArg = s.seqArg := rfl
@[simp] theorem State.requestDelay_seqPc (ms : BitVec 10) : (s.requestDelay ms).seqPc = s.seqPc := rfl
@[simp] theorem State.requestDelay_seqLo (ms : BitVec 10) : (s.requestDelay ms).seqLo = s.seqLo := rfl
@[simp] theorem State.requestDelay_seqPhase (ms : BitVec 10) : (s.requestDelay ms).seqPhase = .wait := rfl
@[simp] theorem State.requestDelay_dlyReq (ms : BitVec 10) : (s.requestDelay ms).dlyReq = true := rfl
@[simp] theorem State.requestDelay_dlyMs (ms : BitVec 10) : (s.requestDelay ms).dlyMs = ms := rfl
@[simp] theorem State.requestDelay_dlyDone (ms : BitVec 10) : (s.requestDelay ms).dlyDone = s.dlyDone := rfl
@[simp] theorem State.requestDelay_diagPort (ms : BitVec 10) : (s.requestDelay ms).diagPort = s.diagPort := rfl
@[simp] theorem State.requestDelay_hRdata (ms : BitVec 10) : (s.requestDelay ms).hRdata = s.hRdata := rfl
@[simp] theorem State.requestDelay_trace (ms : BitVec 10) : (s.requestDelay ms).trace = s.trace := rfl
@[simp] theorem State.requestDelay_divisors (ms : BitVec 10) : (s.requestDelay ms).divisors = s.divisors := rfl
@[simp] theorem State.requestDelay_diags (ms : BitVec 10) : (s.requestDelay ms).diags = s.diags := rfl
@[simp] theorem State.requestDelay_delays (ms : BitVec 10) : (s.requestDelay ms).delays = s.delays ++ [ms] := rfl
@[simp] theorem State.requestDelay_schedule (ms : BitVec 10) : (s.requestDelay ms).schedule = s.schedule := rfl
@[simp] theorem State.requestDelay_freeCount (ms : BitVec 10) : (s.requestDelay ms).freeCount = s.freeCount := rfl

/-! `completeStart` (R132). -/

@[simp] theorem State.completeStart_cfg : (s.completeStart).cfg = s.cfg := rfl
@[simp] theorem State.completeStart_i2ccon : (s.completeStart).i2ccon = { s.i2ccon with sen := false } := rfl
@[simp] theorem State.completeStart_i2cstat : (s.completeStart).i2cstat = s.i2cstat := rfl
@[simp] theorem State.completeStart_i2cbrg : (s.completeStart).i2cbrg = s.i2cbrg := rfl
@[simp] theorem State.completeStart_i2ctrn : (s.completeStart).i2ctrn = s.i2ctrn := rfl
@[simp] theorem State.completeStart_i2crcv : (s.completeStart).i2crcv = s.i2crcv := rfl
@[simp] theorem State.completeStart_cmd : (s.completeStart).cmd = s.cmd := rfl
@[simp] theorem State.completeStart_sstat : (s.completeStart).sstat = { s.sstat with owned := true } := rfl
@[simp] theorem State.completeStart_result : (s.completeStart).result = s.result := rfl
@[simp] theorem State.completeStart_ch0 : (s.completeStart).ch0 = s.ch0 := rfl
@[simp] theorem State.completeStart_ch1 : (s.completeStart).ch1 = s.ch1 := rfl
@[simp] theorem State.completeStart_lux : (s.completeStart).lux = s.lux := rfl
@[simp] theorem State.completeStart_idr : (s.completeStart).idr = s.idr := rfl
@[simp] theorem State.completeStart_seqOp : (s.completeStart).seqOp = s.seqOp := rfl
@[simp] theorem State.completeStart_seqArg : (s.completeStart).seqArg = s.seqArg := rfl
@[simp] theorem State.completeStart_seqPc : (s.completeStart).seqPc = s.seqPc := rfl
@[simp] theorem State.completeStart_seqLo : (s.completeStart).seqLo = s.seqLo := rfl
@[simp] theorem State.completeStart_seqPhase : (s.completeStart).seqPhase = s.seqPhase := rfl
@[simp] theorem State.completeStart_dlyReq : (s.completeStart).dlyReq = s.dlyReq := rfl
@[simp] theorem State.completeStart_dlyMs : (s.completeStart).dlyMs = s.dlyMs := rfl
@[simp] theorem State.completeStart_dlyDone : (s.completeStart).dlyDone = s.dlyDone := rfl
@[simp] theorem State.completeStart_diagPort : (s.completeStart).diagPort = s.diagPort := rfl
@[simp] theorem State.completeStart_hRdata : (s.completeStart).hRdata = s.hRdata := rfl
@[simp] theorem State.completeStart_trace : (s.completeStart).trace = s.trace ++ [.start] := rfl
@[simp] theorem State.completeStart_divisors : (s.completeStart).divisors = s.divisors ++ [s.i2cbrg] := rfl
@[simp] theorem State.completeStart_diags : (s.completeStart).diags = s.diags := rfl
@[simp] theorem State.completeStart_delays : (s.completeStart).delays = s.delays := rfl
@[simp] theorem State.completeStart_schedule : (s.completeStart).schedule = s.schedule := rfl
@[simp] theorem State.completeStart_freeCount : (s.completeStart).freeCount = s.freeCount := rfl

/-! `completeRestart` (R133). -/

@[simp] theorem State.completeRestart_cfg : (s.completeRestart).cfg = s.cfg := rfl
@[simp] theorem State.completeRestart_i2ccon : (s.completeRestart).i2ccon = { s.i2ccon with rsen := false } := rfl
@[simp] theorem State.completeRestart_i2cstat : (s.completeRestart).i2cstat = s.i2cstat := rfl
@[simp] theorem State.completeRestart_i2cbrg : (s.completeRestart).i2cbrg = s.i2cbrg := rfl
@[simp] theorem State.completeRestart_i2ctrn : (s.completeRestart).i2ctrn = s.i2ctrn := rfl
@[simp] theorem State.completeRestart_i2crcv : (s.completeRestart).i2crcv = s.i2crcv := rfl
@[simp] theorem State.completeRestart_cmd : (s.completeRestart).cmd = s.cmd := rfl
@[simp] theorem State.completeRestart_sstat : (s.completeRestart).sstat = s.sstat := rfl
@[simp] theorem State.completeRestart_result : (s.completeRestart).result = s.result := rfl
@[simp] theorem State.completeRestart_ch0 : (s.completeRestart).ch0 = s.ch0 := rfl
@[simp] theorem State.completeRestart_ch1 : (s.completeRestart).ch1 = s.ch1 := rfl
@[simp] theorem State.completeRestart_lux : (s.completeRestart).lux = s.lux := rfl
@[simp] theorem State.completeRestart_idr : (s.completeRestart).idr = s.idr := rfl
@[simp] theorem State.completeRestart_seqOp : (s.completeRestart).seqOp = s.seqOp := rfl
@[simp] theorem State.completeRestart_seqArg : (s.completeRestart).seqArg = s.seqArg := rfl
@[simp] theorem State.completeRestart_seqPc : (s.completeRestart).seqPc = s.seqPc := rfl
@[simp] theorem State.completeRestart_seqLo : (s.completeRestart).seqLo = s.seqLo := rfl
@[simp] theorem State.completeRestart_seqPhase : (s.completeRestart).seqPhase = s.seqPhase := rfl
@[simp] theorem State.completeRestart_dlyReq : (s.completeRestart).dlyReq = s.dlyReq := rfl
@[simp] theorem State.completeRestart_dlyMs : (s.completeRestart).dlyMs = s.dlyMs := rfl
@[simp] theorem State.completeRestart_dlyDone : (s.completeRestart).dlyDone = s.dlyDone := rfl
@[simp] theorem State.completeRestart_diagPort : (s.completeRestart).diagPort = s.diagPort := rfl
@[simp] theorem State.completeRestart_hRdata : (s.completeRestart).hRdata = s.hRdata := rfl
@[simp] theorem State.completeRestart_trace : (s.completeRestart).trace = s.trace ++ [.restart] := rfl
@[simp] theorem State.completeRestart_divisors : (s.completeRestart).divisors = s.divisors ++ [s.i2cbrg] := rfl
@[simp] theorem State.completeRestart_diags : (s.completeRestart).diags = s.diags := rfl
@[simp] theorem State.completeRestart_delays : (s.completeRestart).delays = s.delays := rfl
@[simp] theorem State.completeRestart_schedule : (s.completeRestart).schedule = s.schedule := rfl
@[simp] theorem State.completeRestart_freeCount : (s.completeRestart).freeCount = s.freeCount := rfl

/-! `completeStop` (R134). -/

@[simp] theorem State.completeStop_cfg : (s.completeStop).cfg = s.cfg := rfl
@[simp] theorem State.completeStop_i2ccon : (s.completeStop).i2ccon = { s.i2ccon with pen := false } := rfl
@[simp] theorem State.completeStop_i2cstat : (s.completeStop).i2cstat = s.i2cstat := rfl
@[simp] theorem State.completeStop_i2cbrg : (s.completeStop).i2cbrg = s.i2cbrg := rfl
@[simp] theorem State.completeStop_i2ctrn : (s.completeStop).i2ctrn = s.i2ctrn := rfl
@[simp] theorem State.completeStop_i2crcv : (s.completeStop).i2crcv = s.i2crcv := rfl
@[simp] theorem State.completeStop_cmd : (s.completeStop).cmd = s.cmd := rfl
@[simp] theorem State.completeStop_sstat : (s.completeStop).sstat = { s.sstat with owned := false } := rfl
@[simp] theorem State.completeStop_result : (s.completeStop).result = s.result := rfl
@[simp] theorem State.completeStop_ch0 : (s.completeStop).ch0 = s.ch0 := rfl
@[simp] theorem State.completeStop_ch1 : (s.completeStop).ch1 = s.ch1 := rfl
@[simp] theorem State.completeStop_lux : (s.completeStop).lux = s.lux := rfl
@[simp] theorem State.completeStop_idr : (s.completeStop).idr = s.idr := rfl
@[simp] theorem State.completeStop_seqOp : (s.completeStop).seqOp = s.seqOp := rfl
@[simp] theorem State.completeStop_seqArg : (s.completeStop).seqArg = s.seqArg := rfl
@[simp] theorem State.completeStop_seqPc : (s.completeStop).seqPc = s.seqPc := rfl
@[simp] theorem State.completeStop_seqLo : (s.completeStop).seqLo = s.seqLo := rfl
@[simp] theorem State.completeStop_seqPhase : (s.completeStop).seqPhase = s.seqPhase := rfl
@[simp] theorem State.completeStop_dlyReq : (s.completeStop).dlyReq = s.dlyReq := rfl
@[simp] theorem State.completeStop_dlyMs : (s.completeStop).dlyMs = s.dlyMs := rfl
@[simp] theorem State.completeStop_dlyDone : (s.completeStop).dlyDone = s.dlyDone := rfl
@[simp] theorem State.completeStop_diagPort : (s.completeStop).diagPort = s.diagPort := rfl
@[simp] theorem State.completeStop_hRdata : (s.completeStop).hRdata = s.hRdata := rfl
@[simp] theorem State.completeStop_trace : (s.completeStop).trace = s.trace ++ [.stop] := rfl
@[simp] theorem State.completeStop_divisors : (s.completeStop).divisors = s.divisors ++ [s.i2cbrg] := rfl
@[simp] theorem State.completeStop_diags : (s.completeStop).diags = s.diags := rfl
@[simp] theorem State.completeStop_delays : (s.completeStop).delays = s.delays := rfl
@[simp] theorem State.completeStop_schedule : (s.completeStop).schedule = s.schedule := rfl
@[simp] theorem State.completeStop_freeCount : (s.completeStop).freeCount = s.freeCount := rfl

/-! `completeSend` (R135). -/

@[simp] theorem State.completeSend_cfg (a : Bit) : (s.completeSend a).cfg = s.cfg := rfl
@[simp] theorem State.completeSend_i2ccon (a : Bit) : (s.completeSend a).i2ccon = s.i2ccon := rfl
@[simp] theorem State.completeSend_i2cstat (a : Bit) :
    (s.completeSend a).i2cstat =
      { s.i2cstat with ackstat := a, trstat := false } := rfl
@[simp] theorem State.completeSend_i2cbrg (a : Bit) : (s.completeSend a).i2cbrg = s.i2cbrg := rfl
@[simp] theorem State.completeSend_i2ctrn (a : Bit) : (s.completeSend a).i2ctrn = s.i2ctrn := rfl
@[simp] theorem State.completeSend_i2crcv (a : Bit) : (s.completeSend a).i2crcv = s.i2crcv := rfl
@[simp] theorem State.completeSend_cmd (a : Bit) : (s.completeSend a).cmd = s.cmd := rfl
@[simp] theorem State.completeSend_sstat (a : Bit) : (s.completeSend a).sstat = s.sstat := rfl
@[simp] theorem State.completeSend_result (a : Bit) : (s.completeSend a).result = s.result := rfl
@[simp] theorem State.completeSend_ch0 (a : Bit) : (s.completeSend a).ch0 = s.ch0 := rfl
@[simp] theorem State.completeSend_ch1 (a : Bit) : (s.completeSend a).ch1 = s.ch1 := rfl
@[simp] theorem State.completeSend_lux (a : Bit) : (s.completeSend a).lux = s.lux := rfl
@[simp] theorem State.completeSend_idr (a : Bit) : (s.completeSend a).idr = s.idr := rfl
@[simp] theorem State.completeSend_seqOp (a : Bit) : (s.completeSend a).seqOp = s.seqOp := rfl
@[simp] theorem State.completeSend_seqArg (a : Bit) : (s.completeSend a).seqArg = s.seqArg := rfl
@[simp] theorem State.completeSend_seqPc (a : Bit) : (s.completeSend a).seqPc = s.seqPc := rfl
@[simp] theorem State.completeSend_seqLo (a : Bit) : (s.completeSend a).seqLo = s.seqLo := rfl
@[simp] theorem State.completeSend_seqPhase (a : Bit) : (s.completeSend a).seqPhase = s.seqPhase := rfl
@[simp] theorem State.completeSend_dlyReq (a : Bit) : (s.completeSend a).dlyReq = s.dlyReq := rfl
@[simp] theorem State.completeSend_dlyMs (a : Bit) : (s.completeSend a).dlyMs = s.dlyMs := rfl
@[simp] theorem State.completeSend_dlyDone (a : Bit) : (s.completeSend a).dlyDone = s.dlyDone := rfl
@[simp] theorem State.completeSend_diagPort (a : Bit) : (s.completeSend a).diagPort = s.diagPort := rfl
@[simp] theorem State.completeSend_hRdata (a : Bit) : (s.completeSend a).hRdata = s.hRdata := rfl
@[simp] theorem State.completeSend_trace (a : Bit) : (s.completeSend a).trace = s.trace ++ [.tx s.i2ctrn a] := rfl
@[simp] theorem State.completeSend_divisors (a : Bit) : (s.completeSend a).divisors = s.divisors ++ [s.i2cbrg] := rfl
@[simp] theorem State.completeSend_diags (a : Bit) : (s.completeSend a).diags = s.diags := rfl
@[simp] theorem State.completeSend_delays (a : Bit) : (s.completeSend a).delays = s.delays := rfl
@[simp] theorem State.completeSend_schedule (a : Bit) : (s.completeSend a).schedule = s.schedule := rfl
@[simp] theorem State.completeSend_freeCount (a : Bit) : (s.completeSend a).freeCount = s.freeCount := rfl

/-! `completeReceive` (R136). -/

@[simp] theorem State.completeReceive_cfg (b : Byte) : (s.completeReceive b).cfg = s.cfg := rfl
@[simp] theorem State.completeReceive_i2ccon (b : Byte) :
    (s.completeReceive b).i2ccon =
      { s.i2ccon with rcen := false } := rfl
@[simp] theorem State.completeReceive_i2cstat (b : Byte) :
    (s.completeReceive b).i2cstat =
      { s.i2cstat with rbf := true } := rfl
@[simp] theorem State.completeReceive_i2cbrg (b : Byte) : (s.completeReceive b).i2cbrg = s.i2cbrg := rfl
@[simp] theorem State.completeReceive_i2ctrn (b : Byte) : (s.completeReceive b).i2ctrn = s.i2ctrn := rfl
@[simp] theorem State.completeReceive_i2crcv (b : Byte) : (s.completeReceive b).i2crcv = b := rfl
@[simp] theorem State.completeReceive_cmd (b : Byte) : (s.completeReceive b).cmd = s.cmd := rfl
@[simp] theorem State.completeReceive_sstat (b : Byte) : (s.completeReceive b).sstat = s.sstat := rfl
@[simp] theorem State.completeReceive_result (b : Byte) : (s.completeReceive b).result = s.result := rfl
@[simp] theorem State.completeReceive_ch0 (b : Byte) : (s.completeReceive b).ch0 = s.ch0 := rfl
@[simp] theorem State.completeReceive_ch1 (b : Byte) : (s.completeReceive b).ch1 = s.ch1 := rfl
@[simp] theorem State.completeReceive_lux (b : Byte) : (s.completeReceive b).lux = s.lux := rfl
@[simp] theorem State.completeReceive_idr (b : Byte) : (s.completeReceive b).idr = s.idr := rfl
@[simp] theorem State.completeReceive_seqOp (b : Byte) : (s.completeReceive b).seqOp = s.seqOp := rfl
@[simp] theorem State.completeReceive_seqArg (b : Byte) : (s.completeReceive b).seqArg = s.seqArg := rfl
@[simp] theorem State.completeReceive_seqPc (b : Byte) : (s.completeReceive b).seqPc = s.seqPc := rfl
@[simp] theorem State.completeReceive_seqLo (b : Byte) : (s.completeReceive b).seqLo = s.seqLo := rfl
@[simp] theorem State.completeReceive_seqPhase (b : Byte) : (s.completeReceive b).seqPhase = s.seqPhase := rfl
@[simp] theorem State.completeReceive_dlyReq (b : Byte) : (s.completeReceive b).dlyReq = s.dlyReq := rfl
@[simp] theorem State.completeReceive_dlyMs (b : Byte) : (s.completeReceive b).dlyMs = s.dlyMs := rfl
@[simp] theorem State.completeReceive_dlyDone (b : Byte) : (s.completeReceive b).dlyDone = s.dlyDone := rfl
@[simp] theorem State.completeReceive_diagPort (b : Byte) : (s.completeReceive b).diagPort = s.diagPort := rfl
@[simp] theorem State.completeReceive_hRdata (b : Byte) : (s.completeReceive b).hRdata = s.hRdata := rfl
@[simp] theorem State.completeReceive_trace (b : Byte) : (s.completeReceive b).trace = s.trace ++ [.rxd b] := rfl
@[simp] theorem State.completeReceive_divisors (b : Byte) :
    (s.completeReceive b).divisors =
      s.divisors ++ [s.i2cbrg] := rfl
@[simp] theorem State.completeReceive_diags (b : Byte) : (s.completeReceive b).diags = s.diags := rfl
@[simp] theorem State.completeReceive_delays (b : Byte) : (s.completeReceive b).delays = s.delays := rfl
@[simp] theorem State.completeReceive_schedule (b : Byte) : (s.completeReceive b).schedule = s.schedule := rfl
@[simp] theorem State.completeReceive_freeCount (b : Byte) : (s.completeReceive b).freeCount = s.freeCount := rfl

/-! `completeAck` (R137). -/

@[simp] theorem State.completeAck_cfg : (s.completeAck).cfg = s.cfg := rfl
@[simp] theorem State.completeAck_i2ccon : (s.completeAck).i2ccon = { s.i2ccon with acken := false } := rfl
@[simp] theorem State.completeAck_i2cstat : (s.completeAck).i2cstat = s.i2cstat := rfl
@[simp] theorem State.completeAck_i2cbrg : (s.completeAck).i2cbrg = s.i2cbrg := rfl
@[simp] theorem State.completeAck_i2ctrn : (s.completeAck).i2ctrn = s.i2ctrn := rfl
@[simp] theorem State.completeAck_i2crcv : (s.completeAck).i2crcv = s.i2crcv := rfl
@[simp] theorem State.completeAck_cmd : (s.completeAck).cmd = s.cmd := rfl
@[simp] theorem State.completeAck_sstat : (s.completeAck).sstat = s.sstat := rfl
@[simp] theorem State.completeAck_result : (s.completeAck).result = s.result := rfl
@[simp] theorem State.completeAck_ch0 : (s.completeAck).ch0 = s.ch0 := rfl
@[simp] theorem State.completeAck_ch1 : (s.completeAck).ch1 = s.ch1 := rfl
@[simp] theorem State.completeAck_lux : (s.completeAck).lux = s.lux := rfl
@[simp] theorem State.completeAck_idr : (s.completeAck).idr = s.idr := rfl
@[simp] theorem State.completeAck_seqOp : (s.completeAck).seqOp = s.seqOp := rfl
@[simp] theorem State.completeAck_seqArg : (s.completeAck).seqArg = s.seqArg := rfl
@[simp] theorem State.completeAck_seqPc : (s.completeAck).seqPc = s.seqPc := rfl
@[simp] theorem State.completeAck_seqLo : (s.completeAck).seqLo = s.seqLo := rfl
@[simp] theorem State.completeAck_seqPhase : (s.completeAck).seqPhase = s.seqPhase := rfl
@[simp] theorem State.completeAck_dlyReq : (s.completeAck).dlyReq = s.dlyReq := rfl
@[simp] theorem State.completeAck_dlyMs : (s.completeAck).dlyMs = s.dlyMs := rfl
@[simp] theorem State.completeAck_dlyDone : (s.completeAck).dlyDone = s.dlyDone := rfl
@[simp] theorem State.completeAck_diagPort : (s.completeAck).diagPort = s.diagPort := rfl
@[simp] theorem State.completeAck_hRdata : (s.completeAck).hRdata = s.hRdata := rfl
@[simp] theorem State.completeAck_trace : (s.completeAck).trace = s.trace ++ [.mack s.i2ccon.ackdt] := rfl
@[simp] theorem State.completeAck_divisors : (s.completeAck).divisors = s.divisors ++ [s.i2cbrg] := rfl
@[simp] theorem State.completeAck_diags : (s.completeAck).diags = s.diags := rfl
@[simp] theorem State.completeAck_delays : (s.completeAck).delays = s.delays := rfl
@[simp] theorem State.completeAck_schedule : (s.completeAck).schedule = s.schedule := rfl
@[simp] theorem State.completeAck_freeCount : (s.completeAck).freeCount = s.freeCount := rfl

/-! `advance` (R41). -/

@[simp] theorem State.advance_cfg : (s.advance).cfg = s.cfg := rfl
@[simp] theorem State.advance_i2ccon : (s.advance).i2ccon = s.i2ccon := rfl
@[simp] theorem State.advance_i2cstat : (s.advance).i2cstat = s.i2cstat := rfl
@[simp] theorem State.advance_i2cbrg : (s.advance).i2cbrg = s.i2cbrg := rfl
@[simp] theorem State.advance_i2ctrn : (s.advance).i2ctrn = s.i2ctrn := rfl
@[simp] theorem State.advance_i2crcv : (s.advance).i2crcv = s.i2crcv := rfl
@[simp] theorem State.advance_cmd : (s.advance).cmd = s.cmd := rfl
@[simp] theorem State.advance_sstat : (s.advance).sstat = s.sstat := rfl
@[simp] theorem State.advance_result : (s.advance).result = s.result := rfl
@[simp] theorem State.advance_ch0 : (s.advance).ch0 = s.ch0 := rfl
@[simp] theorem State.advance_ch1 : (s.advance).ch1 = s.ch1 := rfl
@[simp] theorem State.advance_lux : (s.advance).lux = s.lux := rfl
@[simp] theorem State.advance_idr : (s.advance).idr = s.idr := rfl
@[simp] theorem State.advance_seqOp : (s.advance).seqOp = s.seqOp := rfl
@[simp] theorem State.advance_seqArg : (s.advance).seqArg = s.seqArg := rfl
@[simp] theorem State.advance_seqPc : (s.advance).seqPc = s.seqPc + 1#5 := rfl
@[simp] theorem State.advance_seqLo : (s.advance).seqLo = s.seqLo := rfl
@[simp] theorem State.advance_seqPhase : (s.advance).seqPhase = .request := rfl
@[simp] theorem State.advance_dlyReq : (s.advance).dlyReq = s.dlyReq := rfl
@[simp] theorem State.advance_dlyMs : (s.advance).dlyMs = s.dlyMs := rfl
@[simp] theorem State.advance_dlyDone : (s.advance).dlyDone = s.dlyDone := rfl
@[simp] theorem State.advance_diagPort : (s.advance).diagPort = s.diagPort := rfl
@[simp] theorem State.advance_hRdata : (s.advance).hRdata = s.hRdata := rfl
@[simp] theorem State.advance_trace : (s.advance).trace = s.trace := rfl
@[simp] theorem State.advance_divisors : (s.advance).divisors = s.divisors := rfl
@[simp] theorem State.advance_diags : (s.advance).diags = s.diags := rfl
@[simp] theorem State.advance_delays : (s.advance).delays = s.delays := rfl
@[simp] theorem State.advance_schedule : (s.advance).schedule = s.schedule := rfl
@[simp] theorem State.advance_freeCount : (s.advance).freeCount = s.freeCount := rfl

/-! `endDelay` (R279). -/

@[simp] theorem State.endDelay_cfg : (s.endDelay).cfg = s.cfg := rfl
@[simp] theorem State.endDelay_i2ccon : (s.endDelay).i2ccon = s.i2ccon := rfl
@[simp] theorem State.endDelay_i2cstat : (s.endDelay).i2cstat = s.i2cstat := rfl
@[simp] theorem State.endDelay_i2cbrg : (s.endDelay).i2cbrg = s.i2cbrg := rfl
@[simp] theorem State.endDelay_i2ctrn : (s.endDelay).i2ctrn = s.i2ctrn := rfl
@[simp] theorem State.endDelay_i2crcv : (s.endDelay).i2crcv = s.i2crcv := rfl
@[simp] theorem State.endDelay_cmd : (s.endDelay).cmd = s.cmd := rfl
@[simp] theorem State.endDelay_sstat : (s.endDelay).sstat = s.sstat := rfl
@[simp] theorem State.endDelay_result : (s.endDelay).result = s.result := rfl
@[simp] theorem State.endDelay_ch0 : (s.endDelay).ch0 = s.ch0 := rfl
@[simp] theorem State.endDelay_ch1 : (s.endDelay).ch1 = s.ch1 := rfl
@[simp] theorem State.endDelay_lux : (s.endDelay).lux = s.lux := rfl
@[simp] theorem State.endDelay_idr : (s.endDelay).idr = s.idr := rfl
@[simp] theorem State.endDelay_seqOp : (s.endDelay).seqOp = s.seqOp := rfl
@[simp] theorem State.endDelay_seqArg : (s.endDelay).seqArg = s.seqArg := rfl
@[simp] theorem State.endDelay_seqPc : (s.endDelay).seqPc = s.seqPc := rfl
@[simp] theorem State.endDelay_seqLo : (s.endDelay).seqLo = s.seqLo := rfl
@[simp] theorem State.endDelay_seqPhase : (s.endDelay).seqPhase = s.seqPhase := rfl
@[simp] theorem State.endDelay_dlyReq : (s.endDelay).dlyReq = false := rfl
@[simp] theorem State.endDelay_dlyMs : (s.endDelay).dlyMs = s.dlyMs := rfl
@[simp] theorem State.endDelay_dlyDone : (s.endDelay).dlyDone = s.dlyDone := rfl
@[simp] theorem State.endDelay_diagPort : (s.endDelay).diagPort = s.diagPort := rfl
@[simp] theorem State.endDelay_hRdata : (s.endDelay).hRdata = s.hRdata := rfl
@[simp] theorem State.endDelay_trace : (s.endDelay).trace = s.trace := rfl
@[simp] theorem State.endDelay_divisors : (s.endDelay).divisors = s.divisors := rfl
@[simp] theorem State.endDelay_diags : (s.endDelay).diags = s.diags := rfl
@[simp] theorem State.endDelay_delays : (s.endDelay).delays = s.delays := rfl
@[simp] theorem State.endDelay_schedule : (s.endDelay).schedule = s.schedule := rfl
@[simp] theorem State.endDelay_freeCount : (s.endDelay).freeCount = s.freeCount := rfl

/-! `storeLux` (R194). -/

@[simp] theorem State.storeLux_cfg (l : Nat) : (s.storeLux l).cfg = s.cfg := rfl
@[simp] theorem State.storeLux_i2ccon (l : Nat) : (s.storeLux l).i2ccon = s.i2ccon := rfl
@[simp] theorem State.storeLux_i2cstat (l : Nat) : (s.storeLux l).i2cstat = s.i2cstat := rfl
@[simp] theorem State.storeLux_i2cbrg (l : Nat) : (s.storeLux l).i2cbrg = s.i2cbrg := rfl
@[simp] theorem State.storeLux_i2ctrn (l : Nat) : (s.storeLux l).i2ctrn = s.i2ctrn := rfl
@[simp] theorem State.storeLux_i2crcv (l : Nat) : (s.storeLux l).i2crcv = s.i2crcv := rfl
@[simp] theorem State.storeLux_cmd (l : Nat) : (s.storeLux l).cmd = s.cmd := rfl
@[simp] theorem State.storeLux_sstat (l : Nat) : (s.storeLux l).sstat = s.sstat := rfl
@[simp] theorem State.storeLux_result (l : Nat) : (s.storeLux l).result = s.result := rfl
@[simp] theorem State.storeLux_ch0 (l : Nat) : (s.storeLux l).ch0 = s.ch0 := rfl
@[simp] theorem State.storeLux_ch1 (l : Nat) : (s.storeLux l).ch1 = s.ch1 := rfl
@[simp] theorem State.storeLux_lux (l : Nat) : (s.storeLux l).lux = BitVec.ofNat 16 l := rfl
@[simp] theorem State.storeLux_idr (l : Nat) : (s.storeLux l).idr = s.idr := rfl
@[simp] theorem State.storeLux_seqOp (l : Nat) : (s.storeLux l).seqOp = s.seqOp := rfl
@[simp] theorem State.storeLux_seqArg (l : Nat) : (s.storeLux l).seqArg = s.seqArg := rfl
@[simp] theorem State.storeLux_seqPc (l : Nat) : (s.storeLux l).seqPc = s.seqPc := rfl
@[simp] theorem State.storeLux_seqLo (l : Nat) : (s.storeLux l).seqLo = s.seqLo := rfl
@[simp] theorem State.storeLux_seqPhase (l : Nat) : (s.storeLux l).seqPhase = s.seqPhase := rfl
@[simp] theorem State.storeLux_dlyReq (l : Nat) : (s.storeLux l).dlyReq = s.dlyReq := rfl
@[simp] theorem State.storeLux_dlyMs (l : Nat) : (s.storeLux l).dlyMs = s.dlyMs := rfl
@[simp] theorem State.storeLux_dlyDone (l : Nat) : (s.storeLux l).dlyDone = s.dlyDone := rfl
@[simp] theorem State.storeLux_diagPort (l : Nat) : (s.storeLux l).diagPort = s.diagPort := rfl
@[simp] theorem State.storeLux_hRdata (l : Nat) : (s.storeLux l).hRdata = s.hRdata := rfl
@[simp] theorem State.storeLux_trace (l : Nat) : (s.storeLux l).trace = s.trace := rfl
@[simp] theorem State.storeLux_divisors (l : Nat) : (s.storeLux l).divisors = s.divisors := rfl
@[simp] theorem State.storeLux_diags (l : Nat) : (s.storeLux l).diags = s.diags := rfl
@[simp] theorem State.storeLux_delays (l : Nat) : (s.storeLux l).delays = s.delays := rfl
@[simp] theorem State.storeLux_schedule (l : Nat) : (s.storeLux l).schedule = s.schedule := rfl
@[simp] theorem State.storeLux_freeCount (l : Nat) : (s.storeLux l).freeCount = s.freeCount := rfl

/-! `setSession` (R224). -/

@[simp] theorem State.setSession_cfg (x : Session) (b : Bool) : (s.setSession x b).cfg = s.cfg := rfl
@[simp] theorem State.setSession_i2ccon (x : Session) (b : Bool) : (s.setSession x b).i2ccon = s.i2ccon := rfl
@[simp] theorem State.setSession_i2cstat (x : Session) (b : Bool) : (s.setSession x b).i2cstat = s.i2cstat := rfl
@[simp] theorem State.setSession_i2cbrg (x : Session) (b : Bool) : (s.setSession x b).i2cbrg = s.i2cbrg := rfl
@[simp] theorem State.setSession_i2ctrn (x : Session) (b : Bool) : (s.setSession x b).i2ctrn = s.i2ctrn := rfl
@[simp] theorem State.setSession_i2crcv (x : Session) (b : Bool) : (s.setSession x b).i2crcv = s.i2crcv := rfl
@[simp] theorem State.setSession_cmd (x : Session) (b : Bool) : (s.setSession x b).cmd = s.cmd := rfl
@[simp] theorem State.setSession_sstat (x : Session) (b : Bool) :
    (s.setSession x b).sstat =
      { s.sstat with session := x, idwarn := b } := rfl
@[simp] theorem State.setSession_result (x : Session) (b : Bool) : (s.setSession x b).result = s.result := rfl
@[simp] theorem State.setSession_ch0 (x : Session) (b : Bool) : (s.setSession x b).ch0 = s.ch0 := rfl
@[simp] theorem State.setSession_ch1 (x : Session) (b : Bool) : (s.setSession x b).ch1 = s.ch1 := rfl
@[simp] theorem State.setSession_lux (x : Session) (b : Bool) : (s.setSession x b).lux = s.lux := rfl
@[simp] theorem State.setSession_idr (x : Session) (b : Bool) : (s.setSession x b).idr = s.idr := rfl
@[simp] theorem State.setSession_seqOp (x : Session) (b : Bool) : (s.setSession x b).seqOp = s.seqOp := rfl
@[simp] theorem State.setSession_seqArg (x : Session) (b : Bool) : (s.setSession x b).seqArg = s.seqArg := rfl
@[simp] theorem State.setSession_seqPc (x : Session) (b : Bool) : (s.setSession x b).seqPc = s.seqPc := rfl
@[simp] theorem State.setSession_seqLo (x : Session) (b : Bool) : (s.setSession x b).seqLo = s.seqLo := rfl
@[simp] theorem State.setSession_seqPhase (x : Session) (b : Bool) : (s.setSession x b).seqPhase = s.seqPhase := rfl
@[simp] theorem State.setSession_dlyReq (x : Session) (b : Bool) : (s.setSession x b).dlyReq = s.dlyReq := rfl
@[simp] theorem State.setSession_dlyMs (x : Session) (b : Bool) : (s.setSession x b).dlyMs = s.dlyMs := rfl
@[simp] theorem State.setSession_dlyDone (x : Session) (b : Bool) : (s.setSession x b).dlyDone = s.dlyDone := rfl
@[simp] theorem State.setSession_diagPort (x : Session) (b : Bool) : (s.setSession x b).diagPort = s.diagPort := rfl
@[simp] theorem State.setSession_hRdata (x : Session) (b : Bool) : (s.setSession x b).hRdata = s.hRdata := rfl
@[simp] theorem State.setSession_trace (x : Session) (b : Bool) : (s.setSession x b).trace = s.trace := rfl
@[simp] theorem State.setSession_divisors (x : Session) (b : Bool) : (s.setSession x b).divisors = s.divisors := rfl
@[simp] theorem State.setSession_diags (x : Session) (b : Bool) : (s.setSession x b).diags = s.diags := rfl
@[simp] theorem State.setSession_delays (x : Session) (b : Bool) : (s.setSession x b).delays = s.delays := rfl
@[simp] theorem State.setSession_schedule (x : Session) (b : Bool) : (s.setSession x b).schedule = s.schedule := rfl
@[simp] theorem State.setSession_freeCount (x : Session) (b : Bool) :
    (s.setSession x b).freeCount =
      s.freeCount := rfl

/-! `done` (R44). -/

@[simp] theorem State.done_cfg (v : Word) : (s.done v).cfg = s.cfg := rfl
@[simp] theorem State.done_i2ccon (v : Word) : (s.done v).i2ccon = s.i2ccon := rfl
@[simp] theorem State.done_i2cstat (v : Word) : (s.done v).i2cstat = s.i2cstat := rfl
@[simp] theorem State.done_i2cbrg (v : Word) : (s.done v).i2cbrg = s.i2cbrg := rfl
@[simp] theorem State.done_i2ctrn (v : Word) : (s.done v).i2ctrn = s.i2ctrn := rfl
@[simp] theorem State.done_i2crcv (v : Word) : (s.done v).i2crcv = s.i2crcv := rfl
@[simp] theorem State.done_cmd (v : Word) : (s.done v).cmd = s.cmd := rfl
@[simp] theorem State.done_sstat (v : Word) : (s.done v).sstat = { s.sstat with busy := false } := rfl
@[simp] theorem State.done_result (v : Word) : (s.done v).result = v := rfl
@[simp] theorem State.done_ch0 (v : Word) : (s.done v).ch0 = s.ch0 := rfl
@[simp] theorem State.done_ch1 (v : Word) : (s.done v).ch1 = s.ch1 := rfl
@[simp] theorem State.done_lux (v : Word) : (s.done v).lux = s.lux := rfl
@[simp] theorem State.done_idr (v : Word) : (s.done v).idr = s.idr := rfl
@[simp] theorem State.done_seqOp (v : Word) : (s.done v).seqOp = s.seqOp := rfl
@[simp] theorem State.done_seqArg (v : Word) : (s.done v).seqArg = s.seqArg := rfl
@[simp] theorem State.done_seqPc (v : Word) : (s.done v).seqPc = 0#5 := rfl
@[simp] theorem State.done_seqLo (v : Word) : (s.done v).seqLo = s.seqLo := rfl
@[simp] theorem State.done_seqPhase (v : Word) : (s.done v).seqPhase = .request := rfl
@[simp] theorem State.done_dlyReq (v : Word) : (s.done v).dlyReq = s.dlyReq := rfl
@[simp] theorem State.done_dlyMs (v : Word) : (s.done v).dlyMs = s.dlyMs := rfl
@[simp] theorem State.done_dlyDone (v : Word) : (s.done v).dlyDone = s.dlyDone := rfl
@[simp] theorem State.done_diagPort (v : Word) : (s.done v).diagPort = s.diagPort := rfl
@[simp] theorem State.done_hRdata (v : Word) : (s.done v).hRdata = s.hRdata := rfl
@[simp] theorem State.done_trace (v : Word) : (s.done v).trace = s.trace := rfl
@[simp] theorem State.done_divisors (v : Word) : (s.done v).divisors = s.divisors := rfl
@[simp] theorem State.done_diags (v : Word) : (s.done v).diags = s.diags := rfl
@[simp] theorem State.done_delays (v : Word) : (s.done v).delays = s.delays := rfl
@[simp] theorem State.done_schedule (v : Word) : (s.done v).schedule = s.schedule := rfl
@[simp] theorem State.done_freeCount (v : Word) : (s.done v).freeCount = s.freeCount := rfl

/-! `nextTurn` (R275). -/

@[simp] theorem State.nextTurn_cfg (ts : List Turn) : (s.nextTurn ts).cfg = s.cfg := rfl
@[simp] theorem State.nextTurn_i2ccon (ts : List Turn) : (s.nextTurn ts).i2ccon = s.i2ccon := rfl
@[simp] theorem State.nextTurn_i2cstat (ts : List Turn) : (s.nextTurn ts).i2cstat = s.i2cstat := rfl
@[simp] theorem State.nextTurn_i2cbrg (ts : List Turn) : (s.nextTurn ts).i2cbrg = s.i2cbrg := rfl
@[simp] theorem State.nextTurn_i2ctrn (ts : List Turn) : (s.nextTurn ts).i2ctrn = s.i2ctrn := rfl
@[simp] theorem State.nextTurn_i2crcv (ts : List Turn) : (s.nextTurn ts).i2crcv = s.i2crcv := rfl
@[simp] theorem State.nextTurn_cmd (ts : List Turn) : (s.nextTurn ts).cmd = s.cmd := rfl
@[simp] theorem State.nextTurn_sstat (ts : List Turn) : (s.nextTurn ts).sstat = s.sstat := rfl
@[simp] theorem State.nextTurn_result (ts : List Turn) : (s.nextTurn ts).result = s.result := rfl
@[simp] theorem State.nextTurn_ch0 (ts : List Turn) : (s.nextTurn ts).ch0 = s.ch0 := rfl
@[simp] theorem State.nextTurn_ch1 (ts : List Turn) : (s.nextTurn ts).ch1 = s.ch1 := rfl
@[simp] theorem State.nextTurn_lux (ts : List Turn) : (s.nextTurn ts).lux = s.lux := rfl
@[simp] theorem State.nextTurn_idr (ts : List Turn) : (s.nextTurn ts).idr = s.idr := rfl
@[simp] theorem State.nextTurn_seqOp (ts : List Turn) : (s.nextTurn ts).seqOp = s.seqOp := rfl
@[simp] theorem State.nextTurn_seqArg (ts : List Turn) : (s.nextTurn ts).seqArg = s.seqArg := rfl
@[simp] theorem State.nextTurn_seqPc (ts : List Turn) : (s.nextTurn ts).seqPc = s.seqPc := rfl
@[simp] theorem State.nextTurn_seqLo (ts : List Turn) : (s.nextTurn ts).seqLo = s.seqLo := rfl
@[simp] theorem State.nextTurn_seqPhase (ts : List Turn) : (s.nextTurn ts).seqPhase = s.seqPhase := rfl
@[simp] theorem State.nextTurn_dlyReq (ts : List Turn) : (s.nextTurn ts).dlyReq = s.dlyReq := rfl
@[simp] theorem State.nextTurn_dlyMs (ts : List Turn) : (s.nextTurn ts).dlyMs = s.dlyMs := rfl
@[simp] theorem State.nextTurn_dlyDone (ts : List Turn) : (s.nextTurn ts).dlyDone = s.dlyDone := rfl
@[simp] theorem State.nextTurn_diagPort (ts : List Turn) : (s.nextTurn ts).diagPort = none := rfl
@[simp] theorem State.nextTurn_hRdata (ts : List Turn) : (s.nextTurn ts).hRdata = s.hRdata := rfl
@[simp] theorem State.nextTurn_trace (ts : List Turn) : (s.nextTurn ts).trace = s.trace := rfl
@[simp] theorem State.nextTurn_divisors (ts : List Turn) : (s.nextTurn ts).divisors = s.divisors := rfl
@[simp] theorem State.nextTurn_diags (ts : List Turn) : (s.nextTurn ts).diags = s.diags := rfl
@[simp] theorem State.nextTurn_delays (ts : List Turn) : (s.nextTurn ts).delays = s.delays := rfl
@[simp] theorem State.nextTurn_schedule (ts : List Turn) : (s.nextTurn ts).schedule = ts := rfl
@[simp] theorem State.nextTurn_freeCount (ts : List Turn) : (s.nextTurn ts).freeCount = s.freeCount := rfl

/-! `setDlyDone` (R279). -/

@[simp] theorem State.setDlyDone_cfg (l : Bool) : (s.setDlyDone l).cfg = s.cfg := rfl
@[simp] theorem State.setDlyDone_i2ccon (l : Bool) : (s.setDlyDone l).i2ccon = s.i2ccon := rfl
@[simp] theorem State.setDlyDone_i2cstat (l : Bool) : (s.setDlyDone l).i2cstat = s.i2cstat := rfl
@[simp] theorem State.setDlyDone_i2cbrg (l : Bool) : (s.setDlyDone l).i2cbrg = s.i2cbrg := rfl
@[simp] theorem State.setDlyDone_i2ctrn (l : Bool) : (s.setDlyDone l).i2ctrn = s.i2ctrn := rfl
@[simp] theorem State.setDlyDone_i2crcv (l : Bool) : (s.setDlyDone l).i2crcv = s.i2crcv := rfl
@[simp] theorem State.setDlyDone_cmd (l : Bool) : (s.setDlyDone l).cmd = s.cmd := rfl
@[simp] theorem State.setDlyDone_sstat (l : Bool) : (s.setDlyDone l).sstat = s.sstat := rfl
@[simp] theorem State.setDlyDone_result (l : Bool) : (s.setDlyDone l).result = s.result := rfl
@[simp] theorem State.setDlyDone_ch0 (l : Bool) : (s.setDlyDone l).ch0 = s.ch0 := rfl
@[simp] theorem State.setDlyDone_ch1 (l : Bool) : (s.setDlyDone l).ch1 = s.ch1 := rfl
@[simp] theorem State.setDlyDone_lux (l : Bool) : (s.setDlyDone l).lux = s.lux := rfl
@[simp] theorem State.setDlyDone_idr (l : Bool) : (s.setDlyDone l).idr = s.idr := rfl
@[simp] theorem State.setDlyDone_seqOp (l : Bool) : (s.setDlyDone l).seqOp = s.seqOp := rfl
@[simp] theorem State.setDlyDone_seqArg (l : Bool) : (s.setDlyDone l).seqArg = s.seqArg := rfl
@[simp] theorem State.setDlyDone_seqPc (l : Bool) : (s.setDlyDone l).seqPc = s.seqPc := rfl
@[simp] theorem State.setDlyDone_seqLo (l : Bool) : (s.setDlyDone l).seqLo = s.seqLo := rfl
@[simp] theorem State.setDlyDone_seqPhase (l : Bool) : (s.setDlyDone l).seqPhase = s.seqPhase := rfl
@[simp] theorem State.setDlyDone_dlyReq (l : Bool) : (s.setDlyDone l).dlyReq = s.dlyReq := rfl
@[simp] theorem State.setDlyDone_dlyMs (l : Bool) : (s.setDlyDone l).dlyMs = s.dlyMs := rfl
@[simp] theorem State.setDlyDone_dlyDone (l : Bool) : (s.setDlyDone l).dlyDone = l := rfl
@[simp] theorem State.setDlyDone_diagPort (l : Bool) : (s.setDlyDone l).diagPort = s.diagPort := rfl
@[simp] theorem State.setDlyDone_hRdata (l : Bool) : (s.setDlyDone l).hRdata = s.hRdata := rfl
@[simp] theorem State.setDlyDone_trace (l : Bool) : (s.setDlyDone l).trace = s.trace := rfl
@[simp] theorem State.setDlyDone_divisors (l : Bool) : (s.setDlyDone l).divisors = s.divisors := rfl
@[simp] theorem State.setDlyDone_diags (l : Bool) : (s.setDlyDone l).diags = s.diags := rfl
@[simp] theorem State.setDlyDone_delays (l : Bool) : (s.setDlyDone l).delays = s.delays := rfl
@[simp] theorem State.setDlyDone_schedule (l : Bool) : (s.setDlyDone l).schedule = s.schedule := rfl
@[simp] theorem State.setDlyDone_freeCount (l : Bool) : (s.setDlyDone l).freeCount = s.freeCount := rfl

/-! `setReadData` (R71). -/

@[simp] theorem State.setReadData_cfg (v : Word) : (s.setReadData v).cfg = s.cfg := rfl
@[simp] theorem State.setReadData_i2ccon (v : Word) : (s.setReadData v).i2ccon = s.i2ccon := rfl
@[simp] theorem State.setReadData_i2cstat (v : Word) : (s.setReadData v).i2cstat = s.i2cstat := rfl
@[simp] theorem State.setReadData_i2cbrg (v : Word) : (s.setReadData v).i2cbrg = s.i2cbrg := rfl
@[simp] theorem State.setReadData_i2ctrn (v : Word) : (s.setReadData v).i2ctrn = s.i2ctrn := rfl
@[simp] theorem State.setReadData_i2crcv (v : Word) : (s.setReadData v).i2crcv = s.i2crcv := rfl
@[simp] theorem State.setReadData_cmd (v : Word) : (s.setReadData v).cmd = s.cmd := rfl
@[simp] theorem State.setReadData_sstat (v : Word) : (s.setReadData v).sstat = s.sstat := rfl
@[simp] theorem State.setReadData_result (v : Word) : (s.setReadData v).result = s.result := rfl
@[simp] theorem State.setReadData_ch0 (v : Word) : (s.setReadData v).ch0 = s.ch0 := rfl
@[simp] theorem State.setReadData_ch1 (v : Word) : (s.setReadData v).ch1 = s.ch1 := rfl
@[simp] theorem State.setReadData_lux (v : Word) : (s.setReadData v).lux = s.lux := rfl
@[simp] theorem State.setReadData_idr (v : Word) : (s.setReadData v).idr = s.idr := rfl
@[simp] theorem State.setReadData_seqOp (v : Word) : (s.setReadData v).seqOp = s.seqOp := rfl
@[simp] theorem State.setReadData_seqArg (v : Word) : (s.setReadData v).seqArg = s.seqArg := rfl
@[simp] theorem State.setReadData_seqPc (v : Word) : (s.setReadData v).seqPc = s.seqPc := rfl
@[simp] theorem State.setReadData_seqLo (v : Word) : (s.setReadData v).seqLo = s.seqLo := rfl
@[simp] theorem State.setReadData_seqPhase (v : Word) : (s.setReadData v).seqPhase = s.seqPhase := rfl
@[simp] theorem State.setReadData_dlyReq (v : Word) : (s.setReadData v).dlyReq = s.dlyReq := rfl
@[simp] theorem State.setReadData_dlyMs (v : Word) : (s.setReadData v).dlyMs = s.dlyMs := rfl
@[simp] theorem State.setReadData_dlyDone (v : Word) : (s.setReadData v).dlyDone = s.dlyDone := rfl
@[simp] theorem State.setReadData_diagPort (v : Word) : (s.setReadData v).diagPort = s.diagPort := rfl
@[simp] theorem State.setReadData_hRdata (v : Word) : (s.setReadData v).hRdata = v := rfl
@[simp] theorem State.setReadData_trace (v : Word) : (s.setReadData v).trace = s.trace := rfl
@[simp] theorem State.setReadData_divisors (v : Word) : (s.setReadData v).divisors = s.divisors := rfl
@[simp] theorem State.setReadData_diags (v : Word) : (s.setReadData v).diags = s.diags := rfl
@[simp] theorem State.setReadData_delays (v : Word) : (s.setReadData v).delays = s.delays := rfl
@[simp] theorem State.setReadData_schedule (v : Word) : (s.setReadData v).schedule = s.schedule := rfl
@[simp] theorem State.setReadData_freeCount (v : Word) : (s.setReadData v).freeCount = s.freeCount := rfl

/-! `freeRead` (R71). -/

@[simp] theorem State.freeRead_cfg : (s.freeRead).cfg = s.cfg := rfl
@[simp] theorem State.freeRead_i2ccon : (s.freeRead).i2ccon = s.i2ccon := rfl
@[simp] theorem State.freeRead_i2cstat : (s.freeRead).i2cstat = s.i2cstat := rfl
@[simp] theorem State.freeRead_i2cbrg : (s.freeRead).i2cbrg = s.i2cbrg := rfl
@[simp] theorem State.freeRead_i2ctrn : (s.freeRead).i2ctrn = s.i2ctrn := rfl
@[simp] theorem State.freeRead_i2crcv : (s.freeRead).i2crcv = s.i2crcv := rfl
@[simp] theorem State.freeRead_cmd : (s.freeRead).cmd = s.cmd := rfl
@[simp] theorem State.freeRead_sstat : (s.freeRead).sstat = s.sstat := rfl
@[simp] theorem State.freeRead_result : (s.freeRead).result = s.result := rfl
@[simp] theorem State.freeRead_ch0 : (s.freeRead).ch0 = s.ch0 := rfl
@[simp] theorem State.freeRead_ch1 : (s.freeRead).ch1 = s.ch1 := rfl
@[simp] theorem State.freeRead_lux : (s.freeRead).lux = s.lux := rfl
@[simp] theorem State.freeRead_idr : (s.freeRead).idr = s.idr := rfl
@[simp] theorem State.freeRead_seqOp : (s.freeRead).seqOp = s.seqOp := rfl
@[simp] theorem State.freeRead_seqArg : (s.freeRead).seqArg = s.seqArg := rfl
@[simp] theorem State.freeRead_seqPc : (s.freeRead).seqPc = s.seqPc := rfl
@[simp] theorem State.freeRead_seqLo : (s.freeRead).seqLo = s.seqLo := rfl
@[simp] theorem State.freeRead_seqPhase : (s.freeRead).seqPhase = s.seqPhase := rfl
@[simp] theorem State.freeRead_dlyReq : (s.freeRead).dlyReq = s.dlyReq := rfl
@[simp] theorem State.freeRead_dlyMs : (s.freeRead).dlyMs = s.dlyMs := rfl
@[simp] theorem State.freeRead_dlyDone : (s.freeRead).dlyDone = s.dlyDone := rfl
@[simp] theorem State.freeRead_diagPort : (s.freeRead).diagPort = s.diagPort := rfl
@[simp] theorem State.freeRead_hRdata : (s.freeRead).hRdata = Config.freeReadData s.freeCount := rfl
@[simp] theorem State.freeRead_trace : (s.freeRead).trace = s.trace := rfl
@[simp] theorem State.freeRead_divisors : (s.freeRead).divisors = s.divisors := rfl
@[simp] theorem State.freeRead_diags : (s.freeRead).diags = s.diags := rfl
@[simp] theorem State.freeRead_delays : (s.freeRead).delays = s.delays := rfl
@[simp] theorem State.freeRead_schedule : (s.freeRead).schedule = s.schedule := rfl
@[simp] theorem State.freeRead_freeCount : (s.freeRead).freeCount = s.freeCount + 1 := rfl

/-! `writeCon` (R24). -/

@[simp] theorem State.writeCon_cfg (v : Word) : (s.writeCon v).cfg = s.cfg := rfl
@[simp] theorem State.writeCon_i2ccon (v : Word) :
    (s.writeCon v).i2ccon =
      { s.i2ccon with on := v.getLsbD 15, disslw := v.getLsbD 9 } := rfl
@[simp] theorem State.writeCon_i2cstat (v : Word) : (s.writeCon v).i2cstat = s.i2cstat := rfl
@[simp] theorem State.writeCon_i2cbrg (v : Word) : (s.writeCon v).i2cbrg = s.i2cbrg := rfl
@[simp] theorem State.writeCon_i2ctrn (v : Word) : (s.writeCon v).i2ctrn = s.i2ctrn := rfl
@[simp] theorem State.writeCon_i2crcv (v : Word) : (s.writeCon v).i2crcv = s.i2crcv := rfl
@[simp] theorem State.writeCon_cmd (v : Word) : (s.writeCon v).cmd = s.cmd := rfl
@[simp] theorem State.writeCon_sstat (v : Word) : (s.writeCon v).sstat = s.sstat := rfl
@[simp] theorem State.writeCon_result (v : Word) : (s.writeCon v).result = s.result := rfl
@[simp] theorem State.writeCon_ch0 (v : Word) : (s.writeCon v).ch0 = s.ch0 := rfl
@[simp] theorem State.writeCon_ch1 (v : Word) : (s.writeCon v).ch1 = s.ch1 := rfl
@[simp] theorem State.writeCon_lux (v : Word) : (s.writeCon v).lux = s.lux := rfl
@[simp] theorem State.writeCon_idr (v : Word) : (s.writeCon v).idr = s.idr := rfl
@[simp] theorem State.writeCon_seqOp (v : Word) : (s.writeCon v).seqOp = s.seqOp := rfl
@[simp] theorem State.writeCon_seqArg (v : Word) : (s.writeCon v).seqArg = s.seqArg := rfl
@[simp] theorem State.writeCon_seqPc (v : Word) : (s.writeCon v).seqPc = s.seqPc := rfl
@[simp] theorem State.writeCon_seqLo (v : Word) : (s.writeCon v).seqLo = s.seqLo := rfl
@[simp] theorem State.writeCon_seqPhase (v : Word) : (s.writeCon v).seqPhase = s.seqPhase := rfl
@[simp] theorem State.writeCon_dlyReq (v : Word) : (s.writeCon v).dlyReq = s.dlyReq := rfl
@[simp] theorem State.writeCon_dlyMs (v : Word) : (s.writeCon v).dlyMs = s.dlyMs := rfl
@[simp] theorem State.writeCon_dlyDone (v : Word) : (s.writeCon v).dlyDone = s.dlyDone := rfl
@[simp] theorem State.writeCon_diagPort (v : Word) : (s.writeCon v).diagPort = s.diagPort := rfl
@[simp] theorem State.writeCon_hRdata (v : Word) : (s.writeCon v).hRdata = s.hRdata := rfl
@[simp] theorem State.writeCon_trace (v : Word) : (s.writeCon v).trace = s.trace := rfl
@[simp] theorem State.writeCon_divisors (v : Word) : (s.writeCon v).divisors = s.divisors := rfl
@[simp] theorem State.writeCon_diags (v : Word) : (s.writeCon v).diags = s.diags := rfl
@[simp] theorem State.writeCon_delays (v : Word) : (s.writeCon v).delays = s.delays := rfl
@[simp] theorem State.writeCon_schedule (v : Word) : (s.writeCon v).schedule = s.schedule := rfl
@[simp] theorem State.writeCon_freeCount (v : Word) : (s.writeCon v).freeCount = s.freeCount := rfl

/-! `writeBrg` (R33). -/

@[simp] theorem State.writeBrg_cfg (v : Word) : (s.writeBrg v).cfg = s.cfg := rfl
@[simp] theorem State.writeBrg_i2ccon (v : Word) : (s.writeBrg v).i2ccon = s.i2ccon := rfl
@[simp] theorem State.writeBrg_i2cstat (v : Word) : (s.writeBrg v).i2cstat = s.i2cstat := rfl
@[simp] theorem State.writeBrg_i2cbrg (v : Word) : (s.writeBrg v).i2cbrg = v := rfl
@[simp] theorem State.writeBrg_i2ctrn (v : Word) : (s.writeBrg v).i2ctrn = s.i2ctrn := rfl
@[simp] theorem State.writeBrg_i2crcv (v : Word) : (s.writeBrg v).i2crcv = s.i2crcv := rfl
@[simp] theorem State.writeBrg_cmd (v : Word) : (s.writeBrg v).cmd = s.cmd := rfl
@[simp] theorem State.writeBrg_sstat (v : Word) : (s.writeBrg v).sstat = s.sstat := rfl
@[simp] theorem State.writeBrg_result (v : Word) : (s.writeBrg v).result = s.result := rfl
@[simp] theorem State.writeBrg_ch0 (v : Word) : (s.writeBrg v).ch0 = s.ch0 := rfl
@[simp] theorem State.writeBrg_ch1 (v : Word) : (s.writeBrg v).ch1 = s.ch1 := rfl
@[simp] theorem State.writeBrg_lux (v : Word) : (s.writeBrg v).lux = s.lux := rfl
@[simp] theorem State.writeBrg_idr (v : Word) : (s.writeBrg v).idr = s.idr := rfl
@[simp] theorem State.writeBrg_seqOp (v : Word) : (s.writeBrg v).seqOp = s.seqOp := rfl
@[simp] theorem State.writeBrg_seqArg (v : Word) : (s.writeBrg v).seqArg = s.seqArg := rfl
@[simp] theorem State.writeBrg_seqPc (v : Word) : (s.writeBrg v).seqPc = s.seqPc := rfl
@[simp] theorem State.writeBrg_seqLo (v : Word) : (s.writeBrg v).seqLo = s.seqLo := rfl
@[simp] theorem State.writeBrg_seqPhase (v : Word) : (s.writeBrg v).seqPhase = s.seqPhase := rfl
@[simp] theorem State.writeBrg_dlyReq (v : Word) : (s.writeBrg v).dlyReq = s.dlyReq := rfl
@[simp] theorem State.writeBrg_dlyMs (v : Word) : (s.writeBrg v).dlyMs = s.dlyMs := rfl
@[simp] theorem State.writeBrg_dlyDone (v : Word) : (s.writeBrg v).dlyDone = s.dlyDone := rfl
@[simp] theorem State.writeBrg_diagPort (v : Word) : (s.writeBrg v).diagPort = s.diagPort := rfl
@[simp] theorem State.writeBrg_hRdata (v : Word) : (s.writeBrg v).hRdata = s.hRdata := rfl
@[simp] theorem State.writeBrg_trace (v : Word) : (s.writeBrg v).trace = s.trace := rfl
@[simp] theorem State.writeBrg_divisors (v : Word) : (s.writeBrg v).divisors = s.divisors := rfl
@[simp] theorem State.writeBrg_diags (v : Word) : (s.writeBrg v).diags = s.diags := rfl
@[simp] theorem State.writeBrg_delays (v : Word) : (s.writeBrg v).delays = s.delays := rfl
@[simp] theorem State.writeBrg_schedule (v : Word) : (s.writeBrg v).schedule = s.schedule := rfl
@[simp] theorem State.writeBrg_freeCount (v : Word) : (s.writeBrg v).freeCount = s.freeCount := rfl

end Sys2Proof.Machine
end

