-- ==== Sys2Proof/Laws/Turns.lean ====
section
/-! SUPPORT. What one turn can do, said once per shared operation: the engine completes at most one operation, a
sequencer turn is one micro-step's turn or nothing, and a command's run is a sequence of block turns, so that whatever
every block turn keeps the run keeps. -/

namespace Sys2Proof.Machine

/-- An engine turn completes the one operation in flight, or changes nothing. -/
theorem engineTurn_cases (x : Answer) (s : State) :
    (∃ a, s.i2ccon.on = true ∧ s.engAct = some a ∧ engineTurn x s = s.complete x a) ∨ engineTurn x s = s := by
  unfold engineTurn
  split
  · rename_i hon
    split
    · rename_i a ha
      exact .inl ⟨a, hon, ha, rfl⟩
    · exact .inr rfl
  · exact .inr rfl

/-- A sequencer turn is one turn of the micro-step at `SEQ.pc` with `BUSY = 1`, or changes nothing. -/
theorem sequencerTurn_cases (prog : List MicroStep) (s : State) :
    (∃ m, s.sstat.busy = true ∧ prog[s.seqPc.toNat]? = some m ∧ sequencerTurn prog s = microTurn m s) ∨
      sequencerTurn prog s = s := by
  unfold sequencerTurn
  split
  · rename_i hb
    split
    · rename_i m hm
      exact .inl ⟨m, hb, hm, rfl⟩
    · exact .inr rfl
  · exact .inr rfl

/-- `START`: the request, polling, or the end of the await. -/
theorem startPrimitive_cases (s : State) :
    (s.seqPhase = .request ∧ startPrimitive s = s.requestStart) ∨
    (s.seqPhase ≠ .request ∧ s.i2ccon.sen = true ∧ startPrimitive s = s) ∨
    (s.seqPhase ≠ .request ∧ s.i2ccon.sen = false ∧ startPrimitive s = s.advance) := by
  unfold startPrimitive
  cases s.seqPhase <;> cases h : s.i2ccon.sen <;> simp

/-- `RESTART`: the request, polling, or the end of the await. -/
theorem restartPrimitive_cases (s : State) :
    (s.seqPhase = .request ∧ restartPrimitive s = s.requestRestart) ∨
    (s.seqPhase ≠ .request ∧ s.i2ccon.rsen = true ∧ restartPrimitive s = s) ∨
    (s.seqPhase ≠ .request ∧ s.i2ccon.rsen = false ∧ restartPrimitive s = s.advance) := by
  unfold restartPrimitive
  cases s.seqPhase <;> cases h : s.i2ccon.rsen <;> simp

/-- `STOP`: the request, polling, or the end of the await. -/
theorem stopPrimitive_cases (s : State) :
    (s.seqPhase = .request ∧ stopPrimitive s = s.requestStop) ∨
    (s.seqPhase ≠ .request ∧ s.i2ccon.pen = true ∧ stopPrimitive s = s) ∨
    (s.seqPhase ≠ .request ∧ s.i2ccon.pen = false ∧ stopPrimitive s = s.advance) := by
  unfold stopPrimitive
  cases s.seqPhase <;> cases h : s.i2ccon.pen <;> simp

/-- `SEND`: the request, polling, or the end of the await with or without `BusNoAck`. -/
theorem sendPrimitive_cases (b : Byte) (s : State) :
    (s.seqPhase = .request ∧ sendPrimitive b s = s.requestSend b) ∨
    (s.seqPhase ≠ .request ∧ s.i2cstat.trstat = true ∧ sendPrimitive b s = s) ∨
    (s.seqPhase ≠ .request ∧ s.i2cstat.trstat = false ∧ s.i2cstat.ackstat = 1#1 ∧
      sendPrimitive b s = (s.raise .noack).advance) ∨
    (s.seqPhase ≠ .request ∧ s.i2cstat.trstat = false ∧ s.i2cstat.ackstat ≠ 1#1 ∧ sendPrimitive b s = s.advance) := by
  unfold sendPrimitive
  by_cases ha : s.i2cstat.ackstat = 1#1 <;> cases s.seqPhase <;> cases h : s.i2cstat.trstat <;> simp [ha]

/-- `RECV`: the two requests, polling for each, or the return of the byte. -/
theorem recvPrimitive_cases (n : Bit) (d : RecvDst) (s : State) :
    (s.seqPhase = .request ∧ recvPrimitive n d s = s.requestReceive) ∨
    (s.seqPhase = .wait ∧ s.i2cstat.rbf = false ∧ recvPrimitive n d s = s) ∨
    (s.seqPhase = .wait ∧ s.i2cstat.rbf = true ∧ recvPrimitive n d s = s.requestAck n) ∨
    (s.seqPhase = .ackWait ∧ s.i2ccon.acken = true ∧ recvPrimitive n d s = s) ∨
    (s.seqPhase = .ackWait ∧ s.i2ccon.acken = false ∧ recvPrimitive n d s = (s.storeReceived d).advance) := by
  unfold recvPrimitive
  cases s.seqPhase <;> cases h : s.i2cstat.rbf <;> cases h' : s.i2ccon.acken <;> simp

/-- `DELAY`: the request, waiting, or the end of the delay. -/
theorem delayPrimitive_cases (ms : BitVec 10) (s : State) :
    (s.seqPhase = .request ∧ delayPrimitive ms s = s.requestDelay ms) ∨
    (s.seqPhase ≠ .request ∧ s.dlyDone = false ∧ delayPrimitive ms s = s) ∨
    (s.seqPhase ≠ .request ∧ s.dlyDone = true ∧ delayPrimitive ms s = s.endDelay.advance) := by
  unfold delayPrimitive
  cases s.seqPhase <;> cases h : s.dlyDone <;> simp

/-- Whatever holds at the start of a command's run and is kept by every block turn holds at its end. -/
theorem runTurns_keeps {P : State → Prop} {prog : List MicroStep}
    (h : ∀ t s ts, t.isBlock = true → P s → P (blockTurn prog t (s.nextTurn ts))) :
    ∀ (ts : List Turn) (s : State), P s → P (runTurns prog ts s)
  | [], _, hs => hs
  | t :: ts, s, hs => by
    unfold runTurns
    split
    · rename_i hb
      simp only [Bool.and_eq_true] at hb
      exact runTurns_keeps h ts _ (h t s ts hb.2 hs)
    · exact hs

/-- Once `BUSY` is 0 the command takes no further turn. -/
theorem runTurns_of_not_busy {prog : List MicroStep} {s : State} (h : s.sstat.busy = false) (ts : List Turn) :
    runTurns prog ts s = s := by
  cases ts <;> simp [runTurns, h]

/-- While `BUSY` is 1 the command takes the block's next turn. -/
theorem runTurns_cons {prog : List MicroStep} {s : State} {t : Turn} {ts : List Turn} (h : s.sstat.busy = true)
    (ht : t.isBlock = true) : runTurns prog (t :: ts) s = runTurns prog ts (blockTurn prog t (s.nextTurn ts)) := by
  simp [runTurns, h, ht]

/-- The four ends of an issued command: lost, refused for one of two reasons, or accepted and run. -/
theorem issue_cases (i : Instr) (violation : Bool) (prog : List MicroStep) (s : State) :
    (s.sstat.busy = true ∧ issue i violation prog s = .next s.overrun) ∨
    (s.sstat.busy = false ∧ s.i2ccon.on = false ∧
      issue i violation prog s = .next ((s.examine (encode i)).refuse .engineDisabled)) ∨
    (s.sstat.busy = false ∧ s.i2ccon.on = true ∧ violation = true ∧
      issue i violation prog s = .next ((s.examine (encode i)).refuse .busState)) ∨
    (s.sstat.busy = false ∧ s.i2ccon.on = true ∧ violation = false ∧
      issue i violation prog s = .next (runCommand prog ((s.examine (encode i)).accept i.opcode i.operand))) := by
  unfold issue
  cases s.sstat.busy <;> cases s.i2ccon.on <;> cases violation <;> simp

end Sys2Proof.Machine
end

