-- ==== Sys2Proof/Laws/Grant.lean ====
section
/-! SUPPORT. What a micro-step does when the schedule grants it what it waits for: one lemma per micro-step, from the
state in which it has made no request to the state in which the next one has made none. -/

namespace Sys2Proof.Machine

/-- The state of a running command between two micro-steps: `BUSY`, enabled, nothing pending, nothing requested. -/
structure State.Between (s : State) : Prop where
  busy : s.sstat.busy = true
  on : s.i2ccon.on = true
  phase : s.seqPhase = .request
  sen : s.i2ccon.sen = false
  rsen : s.i2ccon.rsen = false
  pen : s.i2ccon.pen = false
  trstat : s.i2cstat.trstat = false
  rcen : s.i2ccon.rcen = false
  acken : s.i2ccon.acken = false

/-- `ready` by its parts. -/
theorem State.ready_iff (s : State) :
    s.ready = true ↔
      s.sstat.busy = false ∧ s.i2ccon.on = true ∧ s.i2ccon.sen = false ∧ s.i2ccon.rsen = false ∧
        s.i2ccon.pen = false ∧ s.i2cstat.trstat = false ∧ s.i2ccon.rcen = false ∧ s.i2ccon.acken = false := by
  simp only [State.ready, State.pending]
  cases s.sstat.busy <;> cases s.i2ccon.on <;> cases s.i2ccon.sen <;> cases s.i2ccon.rsen <;>
    cases s.i2ccon.pen <;> cases s.i2cstat.trstat <;> cases s.i2ccon.rcen <;> cases s.i2ccon.acken <;> decide

/-- A ready state, examined and accepted, is between micro-steps. -/
theorem State.between_of_ready {s : State} (h : s.ready = true) (w : Word) (o a : Byte) :
    ((s.examine w).accept o a).Between := by
  obtain ⟨-, hon, h1, h2, h3, h4, h5, h6⟩ := s.ready_iff.1 h
  exact ⟨by simp, by simpa using hon, by simp, by simpa using h1, by simpa using h2, by simpa using h3,
    by simpa using h4, by simpa using h5, by simpa using h6⟩

/-- The diagnostics of several bytes are those of each, in order (R180). -/
theorem noackDiags_cons_cons (a b : Bit) (as : List Bit) :
    noackDiags (a :: b :: as) = noackDiags [a] ++ noackDiags (b :: as) := by
  rw [show a :: b :: as = [a] ++ (b :: as) from rfl]
  simp only [noackDiags, List.filter_append, List.map_append]

/-- `NOACK` is the OR over the bytes (R180). -/
theorem anyNack_cons (a : Bit) (as : List Bit) : anyNack (a :: as) = (a == 1#1 || anyNack as) := rfl

/-- No byte, no `NOACK`. -/
theorem anyNack_nil : anyNack [] = false := rfl

variable {prog : List MicroStep} {s : State} (rest : List Turn)

/-- `START`, granted. -/
theorem runTurns_start (h : s.Between) (hm : prog[s.seqPc.toNat]? = some .start) (x : Answer) (xs : List Answer) :
    runTurns prog (stepTurns .start (x :: xs) ++ rest) s = runTurns prog rest
      { s with
        trace := s.trace ++ [.start], divisors := s.divisors ++ [s.i2cbrg], sstat := { s.sstat with owned := true }, seqPc := s.seqPc + 1#5
        diagPort := none, schedule := rest } := by
  obtain ⟨hb, ho, hp, h1, h2, h3, h4, h5, h6⟩ := h
  rcases s with ⟨cfg, ⟨on, disslw, ackdt, acken, rcen, pen, rsen, sen⟩, ⟨ackstat, trstat, rbf⟩⟩
  simp only at hb ho hp h1 h2 h3 h4 h5 h6 hm
  subst ho hp h1 h2 h3 h4 h5 h6
  simp [stepTurns, MicroStep.completions, runTurns, Turn.isBlock, blockTurn, State.nextTurn, sequencerTurn, microTurn,
    startPrimitive, State.requestStart, engineTurn, State.engAct, State.pending, State.complete, State.emit, State.completeStart,
    State.advance, hb, hm]

/-- `RESTART`, granted. -/
theorem runTurns_restart (h : s.Between) (hm : prog[s.seqPc.toNat]? = some .restart) (x : Answer)
    (xs : List Answer) :
    runTurns prog (stepTurns .restart (x :: xs) ++ rest) s = runTurns prog rest
      { s with
        trace := s.trace ++ [.restart], divisors := s.divisors ++ [s.i2cbrg], seqPc := s.seqPc + 1#5, diagPort := none, schedule := rest } := by
  obtain ⟨hb, ho, hp, h1, h2, h3, h4, h5, h6⟩ := h
  rcases s with ⟨cfg, ⟨on, disslw, ackdt, acken, rcen, pen, rsen, sen⟩, ⟨ackstat, trstat, rbf⟩⟩
  simp only at hb ho hp h1 h2 h3 h4 h5 h6 hm
  subst ho hp h1 h2 h3 h4 h5 h6
  simp [stepTurns, MicroStep.completions, runTurns, Turn.isBlock, blockTurn, State.nextTurn, sequencerTurn, microTurn,
    restartPrimitive, State.requestRestart, engineTurn, State.engAct, State.pending, State.complete,
    State.completeRestart, State.advance, hb, hm]

/-- `STOP`, granted. -/
theorem runTurns_stop (h : s.Between) (hm : prog[s.seqPc.toNat]? = some .stop) (x : Answer) (xs : List Answer) :
    runTurns prog (stepTurns .stop (x :: xs) ++ rest) s = runTurns prog rest
      { s with
        trace := s.trace ++ [.stop], divisors := s.divisors ++ [s.i2cbrg], sstat := { s.sstat with owned := false }, seqPc := s.seqPc + 1#5
        diagPort := none, schedule := rest } := by
  obtain ⟨hb, ho, hp, h1, h2, h3, h4, h5, h6⟩ := h
  rcases s with ⟨cfg, ⟨on, disslw, ackdt, acken, rcen, pen, rsen, sen⟩, ⟨ackstat, trstat, rbf⟩⟩
  simp only at hb ho hp h1 h2 h3 h4 h5 h6 hm
  subst ho hp h1 h2 h3 h4 h5 h6
  simp [stepTurns, MicroStep.completions, runTurns, Turn.isBlock, blockTurn, State.nextTurn, sequencerTurn, microTurn,
    stopPrimitive, State.requestStop, engineTurn, State.engAct, State.pending, State.complete, State.emit, State.completeStop,
    State.advance, hb, hm]

/-- `SEND b`, granted with the target's bit: `NOACK` is the OR with it, and a diagnostic if it is 1. -/
theorem runTurns_send (h : s.Between) {b : Byte} (hm : prog[s.seqPc.toNat]? = some (.send b)) (x : Answer)
    (xs : List Answer) :
    runTurns prog (stepTurns (.send b) (x :: xs) ++ rest) s = runTurns prog rest
      { s with
        i2ctrn := b, i2cstat := { s.i2cstat with ackstat := x.ack }, trace := s.trace ++ [.tx b x.ack]
        divisors := s.divisors ++ [s.i2cbrg]
        sstat := { s.sstat with noack := s.sstat.noack || x.ack == 1#1 }, diags := s.diags ++ noackDiags [x.ack]
        seqPc := s.seqPc + 1#5, diagPort := if x.ack = 1#1 then some .noack else none, schedule := rest } := by
  obtain ⟨hb, ho, hp, h1, h2, h3, h4, h5, h6⟩ := h
  rcases s with ⟨cfg, ⟨on, disslw, ackdt, acken, rcen, pen, rsen, sen⟩, ⟨ackstat, trstat, rbf⟩, _, _, _, _, ⟨busy, _, _, _, _, _, _, _, _, _⟩⟩
  simp only at hb ho hp h1 h2 h3 h4 h5 h6 hm
  subst hb ho hp h1 h2 h3 h4 h5 h6
  rcases x with ⟨a, v⟩
  have hbeq : a ≠ 1#1 → (a == 1#1) = false := fun e => beq_eq_false_iff_ne.2 e
  by_cases ha : a = 1#1 <;>
  simp [stepTurns, MicroStep.completions, runTurns, Turn.isBlock, blockTurn, State.nextTurn, sequencerTurn, microTurn,
    sendPrimitive, State.requestSend, engineTurn, State.engAct, State.pending, State.complete, State.emit, State.completeSend,
    State.advance, State.raise, Sstat.setFlag, noackDiags, hm, ha, hbeq]

/-- `RECV n -> d`, granted with the target's byte. -/
theorem runTurns_recv (h : s.Between) {n : Bit} {d : RecvDst} (hm : prog[s.seqPc.toNat]? = some (.recv n d))
    (x y : Answer) (xs : List Answer) :
    runTurns prog (stepTurns (.recv n d) (x :: y :: xs) ++ rest) s = runTurns prog rest
      (State.storeReceived { s with
        i2crcv := x.byte, i2cstat := { s.i2cstat with rbf := false }, i2ccon := { s.i2ccon with ackdt := n }
        trace := s.trace ++ [BusEvent.rxd x.byte, BusEvent.mack n]
        divisors := s.divisors ++ [s.i2cbrg, s.i2cbrg], seqPc := s.seqPc + 1#5, diagPort := none
        schedule := rest } d) := by
  obtain ⟨hb, ho, hp, h1, h2, h3, h4, h5, h6⟩ := h
  rcases s with ⟨cfg, ⟨on, disslw, ackdt, acken, rcen, pen, rsen, sen⟩, ⟨ackstat, trstat, rbf⟩⟩
  simp only at hb ho hp h1 h2 h3 h4 h5 h6 hm
  subst ho hp h1 h2 h3 h4 h5 h6
  cases d <;>
  simp [stepTurns, MicroStep.completions, runTurns, Turn.isBlock, blockTurn, State.nextTurn, sequencerTurn, microTurn,
    recvPrimitive, State.requestReceive, State.requestAck, engineTurn, State.engAct, State.pending, State.complete,
    State.completeReceive, State.completeAck, State.storeReceived, State.advance, hb, hm]

/-- `DELAY ms`, granted: `dly_done` rises and falls. -/
theorem runTurns_delay (h : s.Between) {ms : BitVec 10} (hm : prog[s.seqPc.toNat]? = some (.delay ms))
    (xs : List Answer) :
    runTurns prog (stepTurns (.delay ms) xs ++ rest) s = runTurns prog rest
      { s with
        dlyMs := ms, dlyReq := false, dlyDone := false, delays := s.delays ++ [ms], seqPc := s.seqPc + 1#5
        diagPort := none, schedule := rest } := by
  obtain ⟨hb, ho, hp, h1, h2, h3, h4, h5, h6⟩ := h
  rcases s with ⟨cfg, ⟨on, disslw, ackdt, acken, rcen, pen, rsen, sen⟩, ⟨ackstat, trstat, rbf⟩⟩
  simp only at hb ho hp h1 h2 h3 h4 h5 h6 hm
  subst ho hp h1 h2 h3 h4 h5 h6
  simp [stepTurns, runTurns, Turn.isBlock, blockTurn, State.nextTurn, sequencerTurn, microTurn,
    delayPrimitive, State.requestDelay, State.endDelay, State.setDlyDone, State.advance, hb, hm]

/-- The micro-steps that wait for nothing take one turn. -/
theorem runTurns_unwaited (h : s.Between) {m : MicroStep} (hm : prog[s.seqPc.toNat]? = some m)
    (hw : stepTurns m [] = [.sequencer]) (hc : m.completions = 0) (xs : List Answer) :
    runTurns prog (stepTurns m xs ++ rest) s = runTurns prog rest (microTurn m (s.nextTurn rest)) := by
  have e : stepTurns m xs = [.sequencer] := by
    cases m <;> simp_all [stepTurns, MicroStep.completions]
  rw [e]
  simp [runTurns, Turn.isBlock, blockTurn, sequencerTurn, h.busy, hm]

end Sys2Proof.Machine
end

