-- ==== Sys2Proof/Laws/PerInstr.lean ====
section
/-! SUPPORT. The family `Fields`: an instruction's word carries its opcode in bits 15:8 and its operand in bits 7:0
(spec/30_encoding.md R110), and the word is well-formed (R114). -/

namespace Sys2Proof.Laws.Fields

/-- What the family says of an instruction. -/
def Statement (i : Instr) : Prop :=
  opcodeOf (encode i) = i.opcode ∧ operandOf (encode i) = i.operand ∧ wordWellFormed (encode i) = true

/-- The first two parts hold of every instruction; the third needs its opcode to be legal. -/
theorem of_legal {i : Instr} (h : legalOpcode i.opcode = true) : Statement i := by
  refine ⟨opcodeOf_commandWord _ _, operandOf_commandWord _ _, ?_⟩
  have := opcodeOf_commandWord i.opcode i.operand
  unfold opcodeOf at this
  rw [wordWellFormed, encode, this]
  exact h

theorem start (operand : Byte) : Statement (.start operand) := of_legal rfl
theorem restart (operand : Byte) : Statement (.restart operand) := of_legal rfl
theorem send (b : Byte) : Statement (.send b) := of_legal rfl
theorem recv (unused : BitVec 7) (n : Bit) : Statement (.recv unused n) := of_legal rfl
theorem stop (operand : Byte) : Statement (.stop operand) := of_legal rfl
theorem pwron (operand : Byte) : Statement (.pwron operand) := of_legal rfl
theorem pwroff (operand : Byte) : Statement (.pwroff operand) := of_legal rfl
theorem settim (v : Byte) : Statement (.settim v) := of_legal rfl
theorem rdid (operand : Byte) : Statement (.rdid operand) := of_legal rfl
theorem rdch (unused : BitVec 7) (c : Bit) : Statement (.rdch unused c) := of_legal rfl
theorem rdlux (operand : Byte) : Statement (.rdlux operand) := of_legal rfl
theorem init (operand : Byte) : Statement (.init operand) := of_legal rfl

end Sys2Proof.Laws.Fields
end

