-- ==== Sys2Proof/Laws/Step.lean ====
section
/-! SUPPORT. `exec` as one issue of each instruction's own micro-program, and everything a step can do. -/

namespace Sys2Proof.Machine

/-- Every command is issued with its own condition of R119 and its own micro-program. -/
theorem exec_eq_issue (i : Instr) (s : State) :
    exec i s = issue i (violates i s) (programOf s.cfg i) s := by
  cases i <;> rfl

/-- `SEQ.op` and `SEQ.arg` of an accepted command select its own micro-program. -/
theorem program_of_accept (s : State) (i : Instr) :
    (s.accept i.opcode i.operand).program = programOf s.cfg i := by
  simp [State.program, decodeFields_of_instr]

/-- A word written to `CMD` is the issue of the instruction it encodes, or illegal. -/
theorem issueWord_cases (w : Word) (s : State) :
    (∃ i, encode i = w ∧ decode w = .ok i ∧ issueWord w s = exec i s) ∨
      (decode w = .illegal (opcodeOf w) ∧ issueWord w s = .next (issueIllegal w s)) := by
  unfold issueWord
  rcases decodeFields_cases (opcodeOf w) (operandOf w) with ⟨i, hi, ho, ha⟩ | h
  · refine .inl ⟨i, ?_, hi, ?_⟩
    · rw [encode, ho, ha, commandWord_of_fields]
    · simp [decode, hi]
  · exact .inr ⟨h, by simp [decode, h]⟩

/-- Everything one step can do: nothing, a host access with or without a command, reset, or a block turn. -/
theorem step_cases (s : State) :
    (s.schedule = [] ∧ step s = .next (s.nextTurn [])) ∨
    (∃ p rest, s.schedule = .host p :: rest ∧ p.we = true ∧ p.addr = cmdReg ∧
      step s = issueWord p.wdata ((s.nextTurn rest).hostRead p)) ∨
    (∃ p rest, s.schedule = .host p :: rest ∧ p.we = true ∧ p.addr ≠ cmdReg ∧
      step s = .next (((s.nextTurn rest).hostRead p).hostWrite p.addr p.wdata)) ∨
    (∃ p rest, s.schedule = .host p :: rest ∧ p.we = false ∧ step s = .next ((s.nextTurn rest).hostRead p)) ∨
    (∃ rest, s.schedule = .reset :: rest ∧ step s = .next (s.nextTurn rest).resetBlock) ∨
    (∃ t rest, s.schedule = t :: rest ∧ t.isBlock = true ∧
      step s = .next (blockTurn s.program t (s.nextTurn rest))) := by
  unfold step
  split
  · rename_i h
    exact .inl ⟨h, rfl⟩
  · rename_i t rest h
    cases t with
    | host p =>
      cases hw : p.we
      · exact .inr (.inr (.inr (.inl ⟨p, rest, h, hw, by simp [turn, hostTurn, hw]⟩)))
      · by_cases ha : p.addr = cmdReg
        · exact .inr (.inl ⟨p, rest, h, hw, ha, by simp [turn, hostTurn, hw, ha]⟩)
        · exact .inr (.inr (.inl ⟨p, rest, h, hw, ha, by simp [turn, hostTurn, hw, ha]⟩))
    | reset => exact .inr (.inr (.inr (.inr (.inl ⟨rest, h, rfl⟩))))
    | sequencer => exact .inr (.inr (.inr (.inr (.inr ⟨_, rest, h, rfl, rfl⟩))))
    | engine x => exact .inr (.inr (.inr (.inr (.inr ⟨_, rest, h, rfl, rfl⟩))))
    | delayPin l => exact .inr (.inr (.inr (.inr (.inr ⟨_, rest, h, rfl, rfl⟩))))

/-- An issue answers a next state, whatever becomes of the command. -/
theorem issue_next (i : Instr) (violation : Bool) (prog : List MicroStep) (s : State) :
    ∃ t, issue i violation prog s = .next t := by
  unfold issue
  split_ifs <;> exact ⟨_, rfl⟩

/-- So does every word written to `CMD`. -/
theorem issueWord_next (w : Word) (s : State) : ∃ t, issueWord w s = .next t := by
  obtain ⟨i, _, _, h⟩ | ⟨_, h⟩ := issueWord_cases w s
  · obtain ⟨t, ht⟩ := issue_next i (violates i s) (programOf s.cfg i) s
    exact ⟨t, by rw [h, exec_eq_issue, ht]⟩
  · exact ⟨_, h⟩

/-- R260: nothing stops the machine; every step answers a next state. -/
theorem step_next (s : State) : ∃ t, step s = .next t := by
  obtain ⟨_, h⟩ | ⟨_, _, _, _, _, h⟩ | ⟨_, _, _, _, _, h⟩ | ⟨_, _, _, _, h⟩ | ⟨_, _, h⟩ | ⟨_, _, _, _, h⟩ := step_cases s
  on_goal 2 => rw [h]; exact issueWord_next _ _
  all_goals exact ⟨_, h⟩

/-- So `k` steps answer a next state. -/
theorem run_next (k : Nat) (s : State) : ∃ t, Sys2Proof.core.run k s = .next t := by
  induction k generalizing s with
  | zero => exact ⟨s, rfl⟩
  | succ k ih =>
    obtain ⟨t, ht⟩ := step_next s
    obtain ⟨u, hu⟩ := ih t
    have ht : Sys2Proof.core.step s = .next t := ht
    exact ⟨u, by simp only [Host.Core.run, ht, hu]⟩

/-- The read side of a host access: nothing, the register's value, or a free value. -/
theorem State.hostRead_cases (s : State) (p : HostPort) :
    (p.re = false ∧ s.hostRead p = s) ∨
    (p.re = true ∧ p.we = false ∧ s.hostRead p = s.setReadData (s.readReg p.addr)) ∨
    (p.re = true ∧ p.we = true ∧ s.hostRead p = s.freeRead) := by
  unfold State.hostRead
  cases p.re <;> cases p.we <;> simp

/-- The write side of a host access to a register other than `CMD`: the configuration while the host may configure,
nothing otherwise. -/
theorem State.hostWrite_cases (s : State) (r : BitVec 4) (v : Word) :
    (s.sstat.busy = false ∧ s.sstat.owned = false ∧ r = 0#4 ∧ s.hostWrite r v = s.writeCon v) ∨
    (s.sstat.busy = false ∧ s.sstat.owned = false ∧ r = 2#4 ∧ s.hostWrite r v = s.writeBrg v) ∨
    ((s.sstat.busy = true ∨ s.sstat.owned = true ∨ r ≠ 0#4 ∧ r ≠ 2#4) ∧ s.hostWrite r v = s) := by
  by_cases h0 : r = 0#4
  · subst h0
    cases hb : s.sstat.busy <;> cases ho : s.sstat.owned <;> simp [State.hostWrite, State.configurable, hb, ho]
  · by_cases h2 : r = 2#4
    · subst h2
      cases hb : s.sstat.busy <;> cases ho : s.sstat.owned <;> simp [State.hostWrite, State.configurable, hb, ho]
    · refine .inr (.inr ⟨.inr (.inr ⟨h0, h2⟩), ?_⟩)
      unfold State.hostWrite
      split
      · split <;> rename_i h
        · exact absurd (BitVec.eq_of_toNat_eq h) h0
        · exact absurd (BitVec.eq_of_toNat_eq h) h2
        · rfl
      · rfl

end Sys2Proof.Machine
end

