-- ==== Sys2Proof/Laws/Transactions.lean ====
section
/-! SUPPORT. What a whole register transaction does when the schedule grants its completions, in any micro-program and
at any step of it (spec/41_sensor_register_ops.md R172 to R174), and an accepted command as its granted turns. -/

namespace Sys2Proof.Machine

/-- A ready command that meets its bus-state condition runs its own micro-program from step 0. -/
theorem exec_of_ready {i : Instr} {s : State} (hr : s.ready = true) (hv : violates i s = false) :
    exec i s =
      .next (runTurns (programOf s.cfg i) s.schedule ((s.examine (encode i)).accept i.opcode i.operand)) := by
  obtain ⟨hb, hon, -⟩ := s.ready_iff.1 hr
  rw [exec_eq_issue]
  simp [issue, hb, hon, hv, runCommand]

/-- Between micro-steps, whatever the fields other than the requests, `BUSY`, `ON` and the control point are. -/
theorem State.Between.of_eq {s t : State} (h : s.Between) (hb : t.sstat.busy = s.sstat.busy)
    (hc : t.i2ccon = { s.i2ccon with ackdt := t.i2ccon.ackdt }) (hp : t.seqPhase = s.seqPhase)
    (ht : t.i2cstat.trstat = s.i2cstat.trstat) : t.Between := by
  obtain ⟨h1, h2, h3, h4, h5, h6, h7, h8, h9⟩ := h
  refine ⟨hb ▸ h1, ?_, hp ▸ h3, ?_, ?_, ?_, ht ▸ h7, ?_, ?_⟩ <;> rw [hc] <;> assumption

variable {prog : List MicroStep} {s : State} (rest : List Turn)

/-- `MemWrite(r, 1, v)`, granted. -/
theorem runTurns_memWrite (h : s.Between) (c : Config) (reg : BitVec 4) (v : Byte)
    (h0 : prog[s.seqPc.toNat]? = some .start)
    (h1 : prog[(s.seqPc + 1#5).toNat]? = some (.send (addressWrite c)))
    (h2 : prog[(s.seqPc + 2#5).toNat]? = some (.send (commandByte reg)))
    (h3 : prog[(s.seqPc + 3#5).toNat]? = some (.send v))
    (h4 : prog[(s.seqPc + 4#5).toNat]? = some .stop) (x0 x1 x2 x3 x4 : Answer) :
    runTurns prog (grant (memWrite c reg v) [x0, x1, x2, x3, x4] ++ rest) s = runTurns prog rest
      { s with
        i2ctrn := v
        i2cstat := { s.i2cstat with ackstat := x3.ack }
        trace := s.trace ++ writeEvents c reg v x1.ack x2.ack x3.ack
        divisors := s.divisors ++ List.replicate 5 s.i2cbrg
        sstat := { s.sstat with owned := false, noack := s.sstat.noack || anyNack [x1.ack, x2.ack, x3.ack] }
        diags := s.diags ++ noackDiags [x1.ack, x2.ack, x3.ack]
        seqPc := s.seqPc + 5#5
        diagPort := none
        schedule := rest } := by
  simp only [grant, memWrite, List.append_assoc, List.nil_append, MicroStep.completions, List.drop]
  rw [runTurns_start]
  on_goal 2 => exact h.of_eq rfl rfl rfl rfl
  on_goal 2 => exact h0
  rw [runTurns_send]
  on_goal 2 => exact h.of_eq rfl rfl rfl rfl
  on_goal 2 => simpa only [BitVec.add_assoc, BitVec.reduceAdd] using h1
  rw [runTurns_send]
  on_goal 2 => exact h.of_eq rfl rfl rfl rfl
  on_goal 2 => simpa only [BitVec.add_assoc, BitVec.reduceAdd] using h2
  rw [runTurns_send]
  on_goal 2 => exact h.of_eq rfl rfl rfl rfl
  on_goal 2 => simpa only [BitVec.add_assoc, BitVec.reduceAdd] using h3
  rw [runTurns_stop]
  on_goal 2 => exact h.of_eq rfl rfl rfl rfl
  on_goal 2 => simpa only [BitVec.add_assoc, BitVec.reduceAdd] using h4
  simp only [writeEvents, noackDiags_cons_cons, anyNack_cons, anyNack_nil, Bool.or_false, Bool.or_assoc,
    List.append_assoc, List.cons_append, List.nil_append, BitVec.add_assoc, BitVec.reduceAdd,
    List.replicate]

/-- `MemRead(r, 1) -> IDR`, granted. -/
theorem runTurns_memReadOne (h : s.Between) (c : Config) (reg : BitVec 4)
    (h0 : prog[s.seqPc.toNat]? = some .start)
    (h1 : prog[(s.seqPc + 1#5).toNat]? = some (.send (addressWrite c)))
    (h2 : prog[(s.seqPc + 2#5).toNat]? = some (.send (commandByte reg)))
    (h3 : prog[(s.seqPc + 3#5).toNat]? = some .restart)
    (h4 : prog[(s.seqPc + 4#5).toNat]? = some (.send (addressRead c)))
    (h5 : prog[(s.seqPc + 5#5).toNat]? = some (.recv 1#1 .idr))
    (h6 : prog[(s.seqPc + 6#5).toNat]? = some .stop)
    (x0 x1 x2 x3 x4 x5 x6 x7 : Answer) :
    runTurns prog (grant (memReadOne c reg .idr) [x0, x1, x2, x3, x4, x5, x6, x7] ++ rest) s = runTurns prog rest
      { s with
        i2ctrn := addressRead c
        i2crcv := x5.byte
        idr := x5.byte
        i2cstat := { s.i2cstat with ackstat := x4.ack, rbf := false }
        i2ccon := { s.i2ccon with ackdt := 1#1 }
        trace := s.trace ++ readOneEvents c reg x1.ack x2.ack x4.ack x5.byte
        divisors := s.divisors ++ List.replicate 8 s.i2cbrg
        sstat := { s.sstat with owned := false, noack := s.sstat.noack || anyNack [x1.ack, x2.ack, x4.ack] }
        diags := s.diags ++ noackDiags [x1.ack, x2.ack, x4.ack]
        seqPc := s.seqPc + 7#5
        diagPort := none
        schedule := rest } := by
  simp only [grant, memReadOne, List.append_assoc, List.nil_append, MicroStep.completions, List.drop]
  rw [runTurns_start]
  on_goal 2 => exact h.of_eq rfl rfl rfl rfl
  on_goal 2 => exact h0
  rw [runTurns_send]
  on_goal 2 => exact h.of_eq rfl rfl rfl rfl
  on_goal 2 => simpa only [BitVec.add_assoc, BitVec.reduceAdd] using h1
  rw [runTurns_send]
  on_goal 2 => exact h.of_eq rfl rfl rfl rfl
  on_goal 2 => simpa only [BitVec.add_assoc, BitVec.reduceAdd] using h2
  rw [runTurns_restart]
  on_goal 2 => exact h.of_eq rfl rfl rfl rfl
  on_goal 2 => simpa only [BitVec.add_assoc, BitVec.reduceAdd] using h3
  rw [runTurns_send]
  on_goal 2 => exact h.of_eq rfl rfl rfl rfl
  on_goal 2 => simpa only [BitVec.add_assoc, BitVec.reduceAdd] using h4
  rw [runTurns_recv]
  on_goal 2 => exact h.of_eq rfl rfl rfl rfl
  on_goal 2 => simpa only [BitVec.add_assoc, BitVec.reduceAdd] using h5
  simp only [State.storeReceived]
  rw [runTurns_stop]
  on_goal 2 => exact h.of_eq rfl rfl rfl rfl
  on_goal 2 => simpa only [BitVec.add_assoc, BitVec.reduceAdd] using h6
  simp only [readOneEvents, noackDiags_cons_cons, anyNack_cons, anyNack_nil, Bool.or_false, Bool.or_assoc,
    List.append_assoc, List.cons_append, List.nil_append, BitVec.add_assoc, BitVec.reduceAdd,
    List.replicate]

/-- `MemRead(r, 2)` with its `LATCH`, granted. -/
theorem runTurns_memReadTwo (h : s.Between) (c : Config) (ch : Channel)
    (h0 : prog[s.seqPc.toNat]? = some .start)
    (h1 : prog[(s.seqPc + 1#5).toNat]? = some (.send (addressWrite c)))
    (h2 : prog[(s.seqPc + 2#5).toNat]? = some (.send (commandByte (lowReg ch))))
    (h3 : prog[(s.seqPc + 3#5).toNat]? = some .restart)
    (h4 : prog[(s.seqPc + 4#5).toNat]? = some (.send (addressRead c)))
    (h5 : prog[(s.seqPc + 5#5).toNat]? = some (.recv 0#1 .seqLo))
    (h6 : prog[(s.seqPc + 6#5).toNat]? = some (.recv 1#1 .none))
    (h7 : prog[(s.seqPc + 7#5).toNat]? = some .stop)
    (h8 : prog[(s.seqPc + 8#5).toNat]? = some (.latch ch))
    (x0 x1 x2 x3 x4 x5 x6 x7 x8 x9 : Answer) :
    runTurns prog (grant (memReadTwo c ch) [x0, x1, x2, x3, x4, x5, x6, x7, x8, x9] ++ rest) s = runTurns prog rest
      { s with
        i2ctrn := addressRead c
        i2crcv := x7.byte
        seqLo := x5.byte
        ch0 := if ch = .ch0 then assemble x7.byte x5.byte else s.ch0
        ch1 := if ch = .ch1 then assemble x7.byte x5.byte else s.ch1
        i2cstat := { s.i2cstat with ackstat := x4.ack, rbf := false }
        i2ccon := { s.i2ccon with ackdt := 1#1 }
        trace := s.trace ++ readTwoEvents c (lowReg ch) x1.ack x2.ack x4.ack x5.byte x7.byte
        divisors := s.divisors ++ List.replicate 10 s.i2cbrg
        sstat := { s.sstat with owned := false, noack := s.sstat.noack || anyNack [x1.ack, x2.ack, x4.ack] }
        diags := s.diags ++ noackDiags [x1.ack, x2.ack, x4.ack]
        seqPc := s.seqPc + 9#5
        seqPhase := .request
        diagPort := none
        schedule := rest } := by
  simp only [grant, memReadTwo, List.append_assoc, List.nil_append, MicroStep.completions, List.drop]
  rw [runTurns_start]
  on_goal 2 => exact h.of_eq rfl rfl rfl rfl
  on_goal 2 => exact h0
  rw [runTurns_send]
  on_goal 2 => exact h.of_eq rfl rfl rfl rfl
  on_goal 2 => simpa only [BitVec.add_assoc, BitVec.reduceAdd] using h1
  rw [runTurns_send]
  on_goal 2 => exact h.of_eq rfl rfl rfl rfl
  on_goal 2 => simpa only [BitVec.add_assoc, BitVec.reduceAdd] using h2
  rw [runTurns_restart]
  on_goal 2 => exact h.of_eq rfl rfl rfl rfl
  on_goal 2 => simpa only [BitVec.add_assoc, BitVec.reduceAdd] using h3
  rw [runTurns_send]
  on_goal 2 => exact h.of_eq rfl rfl rfl rfl
  on_goal 2 => simpa only [BitVec.add_assoc, BitVec.reduceAdd] using h4
  rw [runTurns_recv]
  on_goal 2 => exact h.of_eq rfl rfl rfl rfl
  on_goal 2 => simpa only [BitVec.add_assoc, BitVec.reduceAdd] using h5
  simp only [State.storeReceived]
  rw [runTurns_recv]
  on_goal 2 => exact h.of_eq rfl rfl rfl rfl
  on_goal 2 => simpa only [BitVec.add_assoc, BitVec.reduceAdd] using h6
  simp only [State.storeReceived]
  rw [runTurns_stop]
  on_goal 2 => exact h.of_eq rfl rfl rfl rfl
  on_goal 2 => simpa only [BitVec.add_assoc, BitVec.reduceAdd] using h7
  rw [runTurns_unwaited _ (m := .latch ch)]
  on_goal 2 => exact h.of_eq rfl rfl rfl rfl
  on_goal 2 => simpa only [BitVec.add_assoc, BitVec.reduceAdd] using h8
  on_goal 2 => rfl
  on_goal 2 => rfl
  simp only [readTwoEvents, noackDiags_cons_cons, anyNack_cons, anyNack_nil, Bool.or_false, Bool.or_assoc,
    List.append_assoc, List.cons_append, List.nil_append, BitVec.add_assoc, BitVec.reduceAdd, microTurn, State.nextTurn,
    State.advance]
  cases ch <;>
    simp only [State.latch, BitVec.add_assoc, BitVec.reduceAdd, reduceCtorEq, if_true, if_false, List.replicate]

end Sys2Proof.Machine
end

