-- ==== Sys2Proof/Tests/Slice0.lean ====
section
/-! SUPPORT. The model's own tests. Expected results are those of spec/95_test_vectors.md (the vector is named beside
each) or of a rule of spec/ worked by hand; the `witness_` theorems show, for each statement with hypotheses, data that
meet all of them together, clause by clause. -/

namespace Sys2Proof.Tests

open Sys2Proof.Machine

/-! ## Helpers -/

/-- After reset with `ON = 1` written, the start of section 2.1 of the vectors. -/
def enabled : State := { State.reset with i2ccon := { I2ccon.zero with on := true } }

/-- After a completed `START` too. -/
def held : State :=
  { enabled with sstat := { Sstat.zero with owned := true }, trace := [.start], divisors := [0#16] }

/-- A command in progress. -/
def running : State := { enabled with sstat := { Sstat.zero with busy := true }, seqOp := 0x01#8 }

/-- An acknowledging target that answers `b`. -/
def ok (b : Byte) : Answer := { ack := 0#1, byte := b }

/-- A target that acknowledges nothing and answers `b`. -/
def absent (b : Byte) : Answer := { ack := 1#1, byte := b }

/-- The state of an outcome. -/
def stateOf (o : Host.Outcome State Fault Refusal) : State :=
  match o with
  | .next s => s
  | .fault r => nomatch r
  | .refused _ => State.reset

/-- The state one step after the host writes `w` to `CMD`, the turns of `prog` granted the answers `xs`. -/
def after (s : State) (w : Word) (prog : List MicroStep) (xs : List Answer) : State :=
  stateOf (step { s with schedule := .host (HostPort.write cmdReg w) :: grant prog xs })

/-- One step in which the host writes `v` to register `r`. -/
def writing (s : State) (r : BitVec 4) (v : Word) : State :=
  stateOf (step { s with schedule := [.host (HostPort.write r v)] })

/-! ## Well-formedness and decoding -/

theorem test_wellformed_refuses_below_and_between :
    wordWellFormed 0x0000#16 = false ∧ wordWellFormed 0x0600#16 = false ∧ wordWellFormed 0x0F00#16 = false := by
  decide

theorem test_wellformed_refuses_above : wordWellFormed 0x1700#16 = false ∧ wordWellFormed 0xFFFF#16 = false := by
  decide

theorem test_wellformed_accepts_every_legal_opcode :
    (0x0100#16 :: 0x02FF#16 :: 0x0300#16 :: 0x04FE#16 :: 0x0500#16 :: 0x1000#16 :: 0x1100#16 :: 0x1211#16 ::
      0x1300#16 :: 0x14FF#16 :: 0x1500#16 :: [0x16FF#16]).all wordWellFormed = true := by
  decide

theorem test_decode_raw :
    decode 0b0000000100000000#16 = .ok (.start 0#8) ∧ decode 0b0000001000000000#16 = .ok (.restart 0#8) ∧
    decode 0b0000001101110010#16 = .ok (.send 0x72#8) ∧ decode 0b0000010000000001#16 = .ok (.recv 0#7 1#1) ∧
    decode 0b0000010100000000#16 = .ok (.stop 0#8) := by
  decide

theorem test_decode_sensor :
    decode 0b0001000000000000#16 = .ok (.pwron 0#8) ∧ decode 0b0001000100000000#16 = .ok (.pwroff 0#8) ∧
    decode 0b0001001000010001#16 = .ok (.settim 0x11#8) ∧ decode 0b0001001100000000#16 = .ok (.rdid 0#8) ∧
    decode 0b0001010011111111#16 = .ok (.rdch 0x7F#7 1#1) := by
  decide

theorem test_decode_lux_and_init :
    decode 0b0001010100000000#16 = .ok (.rdlux 0#8) ∧ decode 0b0001011000000000#16 = .ok (.init 0#8) := by
  decide

theorem test_decode_illegal :
    decode 0x0600#16 = .illegal 0x06#8 ∧ decode 0x1700#16 = .illegal 0x17#8 ∧ decode 0xFFFF#16 = .illegal 0xFF#8 := by
  decide

theorem test_decodeTableWord : decodeTableWord 16 0x1401 = some (.rdch 0#7 1#1) ∧ decodeTableWord 16 0x0700 = none := by
  decide

/-! ## The raw commands -/

/-- V-P1. -/
theorem test_start :
    let t := after enabled 0x0100#16 startProgram [ok 0#8]
    t.trace = [.start] ∧ t.result = 0#16 ∧ t.sstat.toWord = 0x0002#16 := by
  decide

/-- V-E14. -/
theorem test_start_on_held_bus :
    let t := after held 0x0100#16 startProgram [ok 0#8]
    t.trace = [.start] ∧ t.sstat.toWord = 0x00E2#16 := by
  decide

/-- V-P3. -/
theorem test_restart :
    let t := after held 0x0200#16 restartProgram [ok 0#8]
    t.trace = [.start, .restart] ∧ t.sstat.toWord = 0x0002#16 := by
  decide

/-- V-P4. -/
theorem test_send_acknowledged :
    let t := after held 0x0372#16 (sendProgram 0x72#8) [ok 0#8]
    t.trace = [.start, .tx 0x72#8 0#1] ∧ t.result = 0#16 ∧ t.sstat.toWord = 0x0002#16 ∧ t.i2ctrn = 0x72#8 ∧
      t.i2cstat.toWord = 0x0000#16 := by
  decide

/-- V-P5. -/
theorem test_send_unacknowledged :
    let t := after held 0x0372#16 (sendProgram 0x72#8) [absent 0#8]
    t.trace = [.start, .tx 0x72#8 1#1] ∧ t.result = 1#16 ∧ t.sstat.toWord = 0x0006#16 ∧
      t.i2cstat.toWord = 0x8000#16 ∧ t.diags.map Diag.code = [1#2] := by
  decide

/-- V-P8. -/
theorem test_recv_nack :
    let t := after held 0x0401#16 (recvProgram 1#1) [ok 0x50#8, ok 0#8]
    t.trace = [.start, .rxd 0x50#8, .mack 1#1] ∧ t.result = 0x0050#16 ∧ t.sstat.toWord = 0x0002#16 ∧
      t.i2crcv = 0x50#8 ∧ t.i2ccon.toWord = 0x8020#16 ∧ t.i2cstat.rbf = false := by
  decide

/-- V-P10. -/
theorem test_recv_ignores_high_operand_bits :
    let t := after held 0x04FE#16 (recvProgram 0#1) [ok 0x12#8, ok 0#8]
    t.trace = [.start, .rxd 0x12#8, .mack 0#1] ∧ t.result = 0x0012#16 := by
  decide

/-- V-P2. -/
theorem test_stop :
    let t := after held 0x0500#16 stopProgram [ok 0#8]
    t.trace = [.start, .stop] ∧ t.result = 0#16 ∧ t.sstat.toWord = 0x0000#16 := by
  decide

/-! ## Examination and refusal -/

/-- V-E1, V-E6. -/
theorem test_illegal_opcode :
    (writing enabled cmdReg 0x0000#16).sstat.toWord = 0x0060#16 ∧
      (writing held cmdReg 0x0700#16).sstat.toWord = 0x0062#16 := by
  decide

/-- V-E8, V-E9: illegal wins over disabled. -/
theorem test_engine_disabled :
    (writing State.reset cmdReg 0x1600#16).sstat.toWord = 0x00A0#16 ∧
      (writing State.reset cmdReg 0x0700#16).sstat.toWord = 0x0060#16 := by
  decide

/-- V-E10 to V-E13, V-E16. -/
theorem test_bus_state_violation :
    (writing enabled cmdReg 0x0500#16).sstat.toWord = 0x00E0#16 ∧
      (writing enabled cmdReg 0x0372#16).sstat.toWord = 0x00E0#16 ∧
      (writing enabled cmdReg 0x0401#16).sstat.toWord = 0x00E0#16 ∧
      (writing enabled cmdReg 0x0200#16).sstat.toWord = 0x00E0#16 ∧
      (writing held cmdReg 0x1600#16).sstat.toWord = 0x00E2#16 := by
  decide

/-- V-E17: the per-command flags go, the session and `IDWARN` stay. -/
theorem test_examination_clears_flags :
    let s := { enabled with
      sstat := { Sstat.zero with noack := true, badid := true, session := .ready, idwarn := true } }
    s.sstat.toWord = 0x0C14#16 ∧ (writing s cmdReg 0x0000#16).sstat.toWord = 0x0C60#16 := by
  decide

/-- V-E7: the first word after reset, as the host places it. -/
theorem test_first_word_after_reset :
    (stateOf (step (State.reset.withFetchWord 16 0x0100))).sstat.toWord = 0x00A0#16 := by
  decide

/-! ## The sensor register commands -/

/-- V-R1. -/
theorem test_pwron :
    let t := after enabled 0x1000#16 (pwronProgram Config.standard) [ok 0#8, ok 0#8, ok 0#8, ok 0#8, ok 0#8]
    t.trace = [.start, .tx 0x72#8 0#1, .tx 0x80#8 0#1, .tx 0x03#8 0#1, .stop] ∧ t.sstat.toWord = 0#16 ∧
      t.i2ctrn = 0x03#8 := by
  decide

/-- V-R12: `NOACK` is the OR, not the last bit. -/
theorem test_pwron_first_byte_unacknowledged :
    let t := after enabled 0x1000#16 (pwronProgram Config.standard) [ok 0#8, absent 0#8, ok 0#8, ok 0#8, ok 0#8]
    t.sstat.toWord = 0x0004#16 ∧ t.i2cstat.toWord = 0#16 ∧ t.diags = [.noack] := by
  decide

/-- V-R2. -/
theorem test_pwroff :
    let s := { enabled with sstat := { Sstat.zero with session := .ready, idwarn := true } }
    let t := after s 0x1100#16 (pwroffProgram Config.standard) [ok 0#8, ok 0#8, ok 0#8, ok 0#8, ok 0#8]
    t.trace = [.start, .tx 0x72#8 0#1, .tx 0x80#8 0#1, .tx 0x00#8 0#1, .stop] ∧ t.sstat.toWord = 0#16 := by
  decide

/-- V-R3b. -/
theorem test_settim :
    let t := after enabled 0x1211#16 (settimProgram Config.standard 0x11#8) [ok 0#8, ok 0#8, ok 0#8, ok 0#8, ok 0#8]
    t.trace = [.start, .tx 0x72#8 0#1, .tx 0x81#8 0#1, .tx 0x11#8 0#1, .stop] ∧ t.sstat.toWord = 0#16 := by
  decide

/-- The eight answers of a one-byte read. -/
def oneByte (b : Byte) : List Answer := [ok 0#8, ok 0#8, ok 0#8, ok 0#8, ok 0#8, ok b, ok 0#8, ok 0#8]

/-- V-R5. -/
theorem test_rdid_unexpected :
    let t := after enabled 0x1300#16 (rdidProgram Config.standard) (oneByte 0x11#8)
    t.result = 0x0011#16 ∧ t.sstat.toWord = 0x0010#16 ∧ t.idr = 0x11#8 ∧ t.diags.map Diag.code = [3#2] := by
  decide

/-- V-R14, with the other revision's address. -/
theorem test_rdid_other_address :
    let c := { Config.standard with devAddr := 0x29#7 }
    let t := after { enabled with cfg := c } 0x1300#16 (rdidProgram c) (oneByte 0x50#8)
    t.trace = [.start, .tx 0x52#8 0#1, .tx 0x8A#8 0#1, .restart, .tx 0x53#8 0#1, .rxd 0x50#8, .mack 1#1, .stop] ∧
      t.result = 0x0050#16 ∧ t.sstat.toWord = 0#16 := by
  decide

/-- The ten answers of a two-byte read. -/
def twoBytes (lo hi : Byte) : List Answer :=
  [ok 0#8, ok 0#8, ok 0#8, ok 0#8, ok 0#8, ok lo, ok 0#8, ok hi, ok 0#8, ok 0#8]

/-- V-R6. -/
theorem test_rdch_zero :
    let t := after enabled 0x1400#16 (rdchProgram Config.standard .ch0) (twoBytes 0xE8#8 0x03#8)
    t.trace = [.start, .tx 0x72#8 0#1, .tx 0x8C#8 0#1, .restart, .tx 0x73#8 0#1, .rxd 0xE8#8, .mack 0#1, .rxd 0x03#8,
        .mack 1#1, .stop] ∧
      t.result = 0x03E8#16 ∧ t.ch0 = 0x03E8#16 ∧ t.ch1 = 0#16 ∧ t.i2crcv = 0x03#8 ∧ t.seqLo = 0xE8#8 := by
  decide

/-- V-R7b. -/
theorem test_rdch_one :
    let t := after enabled 0x14FF#16 (rdchProgram Config.standard .ch1) (twoBytes 0x90#8 0x01#8)
    t.result = 0x0190#16 ∧ t.ch1 = 0x0190#16 ∧ t.ch0 = 0#16 := by
  decide

/-! ## RDLUX and the converter -/

/-- V-L60. -/
theorem test_rdlux :
    let t := after enabled 0x1500#16 (rdluxProgram Config.standard) (twoBytes 0xE8#8 0x03#8 ++ twoBytes 0x90#8 0x01#8)
    t.ch0 = 0x03E8#16 ∧ t.ch1 = 0x0190#16 ∧ t.lux = 0x000D#16 ∧ t.result = 0x000D#16 ∧ t.sstat.toWord = 0#16 := by
  decide

/-- V-L61: the second transaction is still performed. -/
theorem test_rdlux_saturated :
    let t := after enabled 0x1500#16 (rdluxProgram Config.standard) (twoBytes 0xFF#8 0xFF#8 ++ twoBytes 0x90#8 0x01#8)
    t.ch0 = 0xFFFF#16 ∧ t.ch1 = 0x0190#16 ∧ t.lux = 0#16 ∧ t.sstat.toWord = 0x0008#16 ∧
      t.diags.map Diag.code = [2#2] := by
  decide

/-- V-L1, V-L4, V-L38, V-L26 to V-L29. -/
theorem test_lux_first_branch :
    luxconv true 1000#16 400#16 = (13, false) ∧ luxconv true 1000#16 500#16 = (6, false) ∧
    luxconv true 1234#16 567#16 = (11, false) ∧ luxconv true 33#16 0#16 = (1, false) ∧
    luxconv true 32#16 0#16 = (0, false) ∧ luxconv true 329#16 0#16 = (10, false) ∧
    luxconv true 328#16 0#16 = (9, false) := by
  decide

/-- V-L2, V-L5, V-L30, V-L6, V-L54. -/
theorem test_lux_second_branch :
    luxconv true 1000#16 550#16 = (5, false) ∧ luxconv true 1000#16 501#16 = (6, false) ∧
    luxconv true 12335#16 6784#16 = (66, false) ∧ luxconv true 1000#16 610#16 = (3, false) ∧
    luxconv true 65534#16 32768#16 = (452, false) := by
  decide

/-- V-L7, V-L34, V-L35, V-L10, V-L11, V-L3. -/
theorem test_lux_other_branches :
    luxconv true 1000#16 611#16 = (3, false) ∧ luxconv true 50000#16 40000#16 = (28, false) ∧
    luxconv true 50000#16 60000#16 = (5, false) ∧ luxconv true 1000#16 1300#16 = (0, false) ∧
    luxconv true 1000#16 1301#16 = (0, false) ∧ luxconv true 1000#16 1500#16 = (0, false) := by
  decide

/-- V-L45 to V-L52. -/
theorem test_lux_faults :
    luxconv true 0#16 0#16 = (0, true) ∧ luxconv true 65535#16 5#16 = (0, true) ∧
    luxconv true 5#16 65535#16 = (0, true) ∧ luxconv false 0#16 65535#16 = (0, true) ∧
    luxconv false 0#16 5#16 = (0, false) ∧ luxconv true 65534#16 65535#16 = (0, true) := by
  decide

/-! ## INIT -/

/-- The eighteen answers of an `INIT` whose ID byte is `b`. -/
def initAnswers (b : Byte) : List Answer :=
  [ok 0#8, ok 0#8, ok 0#8, ok 0#8, ok 0#8] ++ oneByte b ++ [ok 0#8, ok 0#8, ok 0#8, ok 0#8, ok 0#8]

/-- V-I2: the timing write still occurs. -/
theorem test_init_unexpected_id :
    let t := after enabled 0x1600#16 (initProgram Config.standard) (initAnswers 0x11#8)
    t.sstat.toWord = 0x0C10#16 ∧ t.result = 0x0011#16 ∧ t.diags = [.badid] ∧
      t.trace.drop 13 = [.start, .tx 0x72#8 0#1, .tx 0x81#8 0#1, .tx 0x02#8 0#1, .stop] := by
  decide

/-- V-I3, and the delay-request list of V-I1. -/
theorem test_init_absent_target :
    let t := after enabled 0x1600#16 (initProgram Config.standard) (List.replicate 18 (absent 0xFF#8))
    t.sstat.toWord = 0x0C14#16 ∧ t.idr = 0xFF#8 ∧ t.delays = [200#10, 500#10] ∧
      t.diags = List.replicate 6 .noack ++ [.badid] ++ List.replicate 3 .noack := by
  decide

/-! ## Single steps inside a command, and the host port -/

/-- V-T1, step 4. -/
theorem test_recv_requests_the_acknowledgment :
    let s := { held with i2cstat := { I2cstat.zero with rbf := true }, i2crcv := 0x50#8, seqPhase := .wait }
    let t := microTurn (.recv 1#1 .none) s
    t.i2ccon.toWord = 0x8030#16 ∧ t.i2cstat.toWord = 0#16 ∧ t.i2crcv = 0x50#8 := by
  decide

/-- V-T2, step 2. -/
theorem test_send_request :
    let t := microTurn (.send 0x72#8) { held with sstat := { held.sstat with busy := true } }
    t.i2ctrn = 0x72#8 ∧ t.i2cstat.toWord = 0x4000#16 ∧ t.sstat.toWord = 0x0003#16 := by
  decide

/-- V-T3, step 3. -/
theorem test_overrun :
    let t := writing { running with cmd := 0x0100#16 } cmdReg 0x0500#16
    t.cmd = 0x0100#16 ∧ t.sstat.toWord = 0x1001#16 := by
  decide

/-- V-T4. -/
theorem test_reset_mid_transaction :
    let t := stateOf (step { held with i2cbrg := 0x31#16, schedule := [.reset] })
    t.i2ccon.toWord = 0#16 ∧ t.i2cbrg = 0#16 ∧ t.sstat.toWord = 0#16 ∧ t.trace = [] := by
  decide

/-- V-T5: the request of `INIT` step 6. -/
theorem test_delay_request :
    let t := microTurn (.delay 200#10) running
    t.dlyMs = 200#10 ∧ t.dlyReq = true ∧ t.delays = [200#10] := by
  decide

/-- V-H1. -/
theorem test_reset_reads_zero : ∀ r : BitVec 4, State.reset.readReg r = 0#16 := by decide

/-- V-H2, V-H3, V-H4. -/
theorem test_host_configuration :
    (writing enabled 0#4 0xFFFF#16).readReg 0#4 = 0x8200#16 ∧ (writing enabled 2#4 0x1234#16).readReg 2#4 = 0x1234#16 ∧
      (writing held 0#4 0x0000#16).readReg 0#4 = 0x8000#16 := by
  decide

/-- V-H5, V-H6. -/
theorem test_ignored_writes :
    (writing held 12#4 0xBEEF#16).readReg 12#4 = 0#16 ∧ (writing held 6#4 0xFFFF#16).sstat = held.sstat ∧
      (writing held 4#4 0xFFFF#16).i2crcv = 0#8 := by
  decide

/-- R251: the worked waveform of `S TX(0x72, 0) P`. -/
theorem test_worked_waveform :
    let w := waveform [.start, .tx 0x72#8 0#1, .stop]
    (w.map Sample.scl).take 9 = [true, true, false, false, true, false, true, false, true] ∧
      (w.map Sample.sda).drop 15 = [true, true, false, false, false, false, false, false, true] := by
  decide

/-- R244: after an unacknowledged byte on a held bus `SCL` is low again, `SDA` still released. -/
theorem test_held_bus_ends_with_clock_low :
    let s := { held with trace := [.start, .tx 0x72#8 1#1] }
    s.lines.scl = false ∧ s.lines.sda = true ∧ { s with i2ccon := I2ccon.zero }.lines = Sample.released := by
  decide

/-- R242: `SDA` rises, `SCL` rises, `SDA` falls, `SCL` falls. -/
theorem test_repeated_start :
    (eventWave .restart).map (fun x => (x.scl, x.sda)) = [(false, true), (true, true), (true, false), (false, false)] := by
  decide

/-- R240: a line is low as soon as one party pulls it low, whoever it is. -/
theorem test_lines_are_the_and :
    (driven .target true true).clockHeld.scl = false ∧ (driven .target true false).sda = false ∧
      { driven .master true false with targetSda := true }.sda = false ∧ Sample.released.sda = true := by
  decide

/-- R24, R250: a new `I2CBRG` between transactions leaves the divisor of the events already sent. -/
theorem test_divisor_of_sent_events :
    let s := { enabled with i2cbrg := 7#16, trace := [.start, .stop], divisors := [3#16, 3#16] }
    let t := after (writing s 2#4 9#16) 0x0100#16 startProgram [ok 0#8]
    t.i2cbrg = 9#16 ∧ t.trace = [.start, .stop, .start] ∧ t.divisors = [3#16, 3#16, 9#16] := by
  decide

/-! ## Witnesses of the statements' hypotheses -/

theorem witness_DecodedWordIsItsEncoding :
    decode 0x0100#16 = .ok (.start 0#8) ∧ decode 0x16FF#16 = .ok (.init 0xFF#8) := by decide

theorem witness_DecoderFollowsTableRows :
    decode 0x0372#16 = .ok (.send 0x72#8) ∧
    (∃ i : Instr, 0x05FF#16 &&& 0xFF00#16 = i.opcode.zeroExtend 16 <<< 8) ∧
    ∀ i : Instr, 0x0600#16 &&& 0xFF00#16 ≠ i.opcode.zeroExtend 16 <<< 8 :=
  ⟨by decide, ⟨.stop 0#8, by decide⟩, fun i => by cases i <;> simp [Instr.opcode]⟩

theorem witness_IllegalOpcodesAreRefused :
    State.reset.sstat.busy = false ∧ decode 0x0000#16 = .illegal 0x00#8 ∧ decode 0x0600#16 = .illegal 0x06#8 ∧
    decode 0x0FFF#16 = .illegal 0x0F#8 ∧ decode 0x1700#16 = .illegal 0x17#8 ∧ decode 0xFFFF#16 = .illegal 0xFF#8 := by
  decide

theorem witness_StepRunsTheIssuedCommand :
    ({ enabled with schedule := [.host { re := true, we := true, addr := 5#4, wdata := 0x0100#16 }] } : State).schedule =
        .host { re := true, we := true, addr := 5#4, wdata := 0x0100#16 } :: [] ∧
      decode 0x0100#16 = .ok (.start 0#8) ∧ decodeTableWord 16 0x1600 = some (.init 0#8) := by
  decide

theorem witness_StepTakesOneTurn :
    ({ held with schedule := [.sequencer] } : State).schedule = .sequencer :: [] ∧
    ({ held with schedule := [.engine (ok 1#8)] } : State).schedule = .engine (ok 1#8) :: [] ∧
    ({ held with schedule := [.delayPin true] } : State).schedule = .delayPin true :: [] ∧ held.schedule = [] ∧
    ({ held with schedule := [.host (HostPort.read 15#4)] } : State).schedule = .host (HostPort.read 15#4) :: [] ∧
    (HostPort.read 15#4).we = false ∧
    ({ held with schedule := [.host (HostPort.write 4#4 1#16)] } : State).schedule =
        .host (HostPort.write 4#4 1#16) :: [] ∧
    (HostPort.write 4#4 1#16).we = true ∧ (HostPort.write 4#4 1#16).addr ≠ 5#4 ∧
    ({ held with schedule := [.host (HostPort.write 5#4 0x0700#16)] } : State).schedule =
        .host (HostPort.write 5#4 0x0700#16) :: [] ∧
    (HostPort.write 5#4 0x0700#16).we = true ∧ (HostPort.write 5#4 0x0700#16).addr = 5#4 ∧
    decode (HostPort.write 5#4 0x0700#16).wdata = .illegal 0x07#8 ∧
    ({ held with schedule := [.reset] } : State).schedule = .reset :: [] ∧
    ({ re := true, we := true, addr := 15#4, wdata := 7#16 } : HostPort).re = true := by
  decide

theorem witness_OverrunLosesTheWord :
    running.sstat.busy = true ∧
    ∃ (s u : State) (t : Turn), s.sstat.ovr = true ∧ t ≠ .reset ∧ turn t s = .next u :=
  ⟨rfl, { running with sstat := { running.sstat with ovr := true } }, _, .sequencer, rfl, by decide, rfl⟩

theorem witness_DisabledEngineRefuses : State.reset.sstat.busy = false ∧ State.reset.i2ccon.on = false := by decide

theorem witness_BusStateViolationRefuses :
    held.sstat.busy = false ∧ held.i2ccon.on = true ∧ held.sstat.owned = true ∧ enabled.sstat.busy = false ∧
    enabled.i2ccon.on = true ∧ enabled.sstat.owned = false := by
  decide

theorem witness_AcceptanceLatchesTheCommand :
    enabled.sstat.busy = false ∧ enabled.i2ccon.on = true ∧ violates (.start 0#8) enabled = false ∧
    violates (.stop 0#8) held = false ∧ enabled.schedule = [] ∧ held.schedule = [] := by
  decide

theorem witness_CmdReadsAsLastExaminedWord :
    enabled.sstat.busy = false ∧ (∃ t, issueWord 0x0700#16 enabled = .next t) ∧
    (∃ t, issueWord 0x0500#16 enabled = .next t) ∧ ∃ t, issueWord 0x01AB#16 enabled = .next t :=
  ⟨rfl, ⟨_, rfl⟩, ⟨_, rfl⟩, ⟨_, rfl⟩⟩

/-- A state and a schedule meet the hypotheses of a completion statement. -/
abbrev meets (s : State) (owned : Bool) (prog : List MicroStep) (xs : List Answer) (rest : List Turn) : Prop :=
  let t := { s with schedule := grant prog xs ++ rest }
  t.ready = true ∧ t.sstat.owned = owned ∧ t.schedule = grant prog xs ++ rest

theorem witness_StartCompletes : meets enabled false startProgram [ok 0#8] [] := by decide
theorem witness_RestartCompletes : meets held true restartProgram [ok 0#8] [] := by decide
theorem witness_SendCompletes : meets held true (sendProgram 0xFF#8) [absent 0#8] [.reset] := by decide
theorem witness_RecvCompletes : meets held true (recvProgram 1#1) [ok 0xFF#8, ok 0#8] [] := by decide
theorem witness_StopCompletes : meets held true stopProgram [ok 0#8] [] := by decide

theorem witness_PwronCompletes :
    meets enabled false (pwronProgram Config.standard) [ok 0#8, absent 0#8, ok 0#8, ok 0#8, ok 0#8] [] := by decide

theorem witness_PwroffCompletes :
    meets enabled false (pwroffProgram Config.standard) [ok 0#8, ok 0#8, ok 0#8, ok 0#8, ok 0#8] [] := by decide

theorem witness_SettimCompletes :
    meets enabled false (settimProgram Config.standard 0xFF#8) [ok 0#8, ok 0#8, ok 0#8, ok 0#8, ok 0#8] [] := by decide

theorem witness_RdidCompletes : meets enabled false (rdidProgram Config.standard) (oneByte 0x11#8) [] := by decide

theorem witness_RdchCompletes :
    meets enabled false (rdchProgram Config.standard (channelOf 1#1)) (twoBytes 0xFF#8 0xFF#8) [] := by decide

theorem witness_RdluxCompletes :
    meets enabled false (rdluxProgram Config.standard) (twoBytes 0#8 0#8 ++ twoBytes 0xFF#8 0xFF#8) [] := by decide

theorem witness_InitCompletes : meets enabled false (initProgram Config.standard) (initAnswers 0x51#8) [] := by decide

theorem witness_AcceptedCommandTerminatesUnderLiveness :
    let xs := List.replicate 44 (absent 0xFF#8)
    let s := { enabled with schedule := xs.flatMap roundTurns ++ [] }
    s.ready = true ∧ violates (.init 0#8) s = false ∧ 44 ≤ xs.length ∧ s.schedule = xs.flatMap roundTurns ++ [] := by
  decide

theorem witness_CommandHangsWithoutCompletions :
    let s := { enabled with schedule := [.sequencer, .delayPin true, .sequencer] }
    s.ready = true ∧ violates (.init 0#8) s = false ∧ (∀ x, Turn.engine x ∉ s.schedule) ∧
      ∃ t, exec (.init 0#8) s = .next t :=
  ⟨by decide, by decide, by simp, _, rfl⟩

theorem witness_EngineOperations :
    let s := { held with i2cstat := { held.i2cstat with rbf := true }, seqPhase := .wait }
    held.seqPhase = .request ∧ s.seqPhase = .wait ∧ s.i2cstat.rbf = true ∧ held.i2ccon.on = true ∧
    ({ held with i2ccon := { held.i2ccon with sen := true } } : State).engAct = some .start ∧
    ({ held with i2ccon := { held.i2ccon with rsen := true } } : State).engAct = some .restart ∧
    ({ held with i2ccon := { held.i2ccon with pen := true } } : State).engAct = some .stop ∧
    ({ held with i2cstat := { held.i2cstat with trstat := true } } : State).engAct = some .tx ∧
    ({ held with i2ccon := { held.i2ccon with rcen := true } } : State).engAct = some .rx ∧
    ({ held with i2ccon := { held.i2ccon with acken := true } } : State).engAct = some .ack := by
  decide

theorem witness_WaitingSequencerChangesNothing :
    let s := { running with
      seqPhase := .wait
      i2ccon := { running.i2ccon with sen := true, rsen := true, pen := true }
      i2cstat := { running.i2cstat with trstat := true } }
    let t := { running with seqPhase := .ackWait, i2ccon := { running.i2ccon with acken := true } }
    s.seqPhase ≠ .request ∧ s.i2ccon.sen = true ∧ s.i2ccon.rsen = true ∧ s.i2ccon.pen = true ∧
      s.i2cstat.trstat = true ∧ s.seqPhase = .wait ∧ s.i2cstat.rbf = false ∧ s.dlyDone = false ∧
      t.seqPhase ≠ .request ∧ t.seqPhase = .ackWait ∧ t.i2ccon.acken = true := by
  decide

theorem witness_DelayLatchSessionSteps :
    let s := { running with seqPhase := .wait, dlyDone := true }
    running.seqPhase = .request ∧ s.seqPhase = .wait ∧ s.dlyDone = true := by
  decide

theorem witness_DisabledEngineDoesNothing : State.reset.i2ccon.on = false ∧ State.reset.sstat.busy = false := by decide

theorem witness_RaisedFaultIsFlagAndDiagnostic :
    let s := { held with seqPhase := .wait, i2cstat := { held.i2cstat with ackstat := 1#1 } }
    s.seqPhase = .wait ∧ s.i2cstat.trstat = false := by
  decide

/-- Each branch at its last ratio: 0.50, 0.61, 0.80, 1.30, and one above. -/
theorem witness_LuxIsTruncatedRealFormula :
    (1000#16 ≠ 0#16 ∧ 1000#16 ≠ 0xFFFF#16 ∧ 1301#16 ≠ 0xFFFF#16) ∧
    (0#16 ≠ 0xFFFF#16 ∧ (0xFFFF#16 = 0xFFFF#16 ∨ 5#16 = 0xFFFF#16) ∧ (5#16 = 0xFFFF#16 ∨ 0xFFFF#16 = 0xFFFF#16)) ∧
    (1000 : ℝ) = (1000#16 : Word).toNat ∧ (500 : ℝ) = (500#16 : Word).toNat ∧ (610 : ℝ) = (610#16 : Word).toNat ∧
    (800 : ℝ) = (800#16 : Word).toNat ∧ (1300 : ℝ) = (1300#16 : Word).toNat ∧
    (1301 : ℝ) = (1301#16 : Word).toNat ∧
    (500 : ℝ) / 1000 ≤ 50 / 100 ∧ (50 : ℝ) / 100 < 610 / 1000 ∧ (610 : ℝ) / 1000 ≤ 61 / 100 ∧
    (61 : ℝ) / 100 < 800 / 1000 ∧ (800 : ℝ) / 1000 ≤ 80 / 100 ∧ (80 : ℝ) / 100 < 1300 / 1000 ∧
    (1300 : ℝ) / 1000 ≤ 130 / 100 ∧ (130 : ℝ) / 100 < 1301 / 1000 :=
  ⟨by decide, by decide, by norm_num⟩

theorem witness_LuxBoundariesTakeLowerBranch : 0 < 1000 ∧ 100 * 500 ≤ 50 * 1000 := by decide

theorem witness_LuxFirstBranchIsGreatest :
    0 < 1000 ∧ 1000 ≤ 65535 ∧ 2 * 400 ≤ 1000 ∧ 2 * 0 ≤ 1000 ∧
    ∃ q : Nat → Prop,
      (∀ n, q n ↔ 10000 * n ≤ 304 * 1000 ∧ 620 ^ 5 * 400 ^ 7 ≤ (304 * 1000 - 10000 * n) ^ 5 * 1000 ^ 2) ∧ q 13 ∧ 12 ≤ 13 :=
  ⟨by decide, by decide, by decide, by decide, _, fun _ => Iff.rfl, by decide, by decide⟩

theorem witness_LuxIsAtMost1992 : 65534#16 ≠ 0#16 ∧ luxBranch 65534 32768 ≠ .b1 := by decide

theorem witness_LuxFaultLaw : (luxconv true 0#16 5#16).2 = true ∧ (luxconv false 65534#16 65535#16).2 = true := by
  decide

theorem witness_HostReadHasNoSideEffect :
    (HostPort.read 4#4).re = true ∧ (HostPort.read 4#4).we = false ∧ (HostPort.write 4#4 7#16).re = false := by decide

theorem witness_HostRegisterMap : 12 ≤ (12#4 : BitVec 4).toNat ∧ 12 ≤ (15#4 : BitVec 4).toNat ∧ (5 < 6 ∨ 10 < 5) ∧
    (11 < 6 ∨ 10 < 11) := by
  decide

theorem witness_HostConfiguresOnlyWhenFree :
    enabled.sstat.busy = false ∧ enabled.sstat.owned = false ∧ held.sstat.owned = true ∧ running.sstat.busy = true := by
  decide

theorem witness_OtherHostWritesChangeNothing :
    (1#4 : BitVec 4) ≠ 0#4 ∧ (1#4 : BitVec 4) ≠ 2#4 ∧ (1#4 : BitVec 4) ≠ 5#4 ∧ (15#4 : BitVec 4) ≠ 0#4 ∧
    (15#4 : BitVec 4) ≠ 2#4 ∧ (15#4 : BitVec 4) ≠ 5#4 ∧ 12 ≤ (12#4 : BitVec 4).toNat := by
  decide

theorem witness_ResetTurnFromAnyState : ({ held with schedule := [.reset] } : State).schedule = .reset :: [] := rfl

/-- A command in the middle of an `INIT`, its transmission pending. -/
def midInit : State :=
  { enabled with
    i2ctrn := 0x72#8, i2cstat := { I2cstat.zero with trstat := true }, trace := [.start], divisors := [0#16]
    seqOp := 0x16#8, seqPc := 2#5
    seqPhase := .wait, sstat := { Sstat.zero with busy := true, owned := true, session := .poweringUp }
    schedule := [.engine (ok 0#8)] }

theorem witness_StepKeepsCoherence : midInit.coherent = true ∧ ∃ t, step midInit = .next t := ⟨by decide, _, rfl⟩

theorem witness_AtMostOneRequest : midInit.coherent = true ∧ midInit.pending ≠ [] := by decide

theorem witness_TraceBracketsAgreeWithOwned : midInit.coherent = true ∧ held.coherent = true := by decide

theorem witness_SessionTransitions_between :
    midInit.coherent = true ∧ midInit.sstat.session = .poweringUp ∧ held.coherent = true ∧ held.sstat.busy = false := by
  decide

/-- Each step that moves the session: 0, 15 and 22 of `INIT`, 5 of `PWROFF`. -/
theorem witness_SessionTransitions_steps :
    let s (op : Byte) (pc : BitVec 5) : State :=
      { running with seqOp := op, seqPc := pc, sstat := { running.sstat with session := .idInvalid } }
    let moves (i : Instr) (s : State) : Prop :=
      (blockTurn (programOf Config.standard i) .sequencer s).sstat.session ≠ s.sstat.session
    moves (.init 0#8) (s 0x16#8 0#5) ∧ moves (.init 0#8) (s 0x16#8 15#5) ∧ moves (.init 0#8) (s 0x16#8 22#5) ∧
      moves (.pwroff 0#8) (s 0x11#8 5#5) := by
  decide

/-- A turn of each kind that moves the session: reset, a sequencer turn, the issue of `INIT`. -/
theorem witness_SessionTransitions_turns :
    (∃ u, turn .reset midInit = .next u ∧ u.sstat.session ≠ midInit.sstat.session) ∧
    (let s := { running with seqOp := 0x16#8 }
     ∃ u, turn .sequencer s = .next u ∧ u.sstat.session ≠ s.sstat.session) ∧
    let s := { enabled with schedule := [.sequencer] }
    ∃ u, turn (.host (HostPort.write 5#4 0x1600#16)) s = .next u ∧ u.sstat.session ≠ s.sstat.session :=
  ⟨⟨_, rfl, by decide⟩, ⟨_, rfl, by decide⟩, ⟨_, rfl, by decide⟩⟩

theorem witness_ParametersNeverChange : ∃ t, step midInit = .next t := ⟨_, rfl⟩

theorem witness_TracesOnlyGrow : (∀ rest, midInit.schedule ≠ .reset :: rest) ∧ ∃ t, step midInit = .next t :=
  ⟨fun _ => by simp [midInit], _, rfl⟩

theorem witness_RawCommandFrame :
    (∃ t, exec (.start 0#8) enabled = .next t) ∧ (∃ t, exec (.restart 0#8) held = .next t) ∧
    (∃ t, exec (.send 0#8) held = .next t) ∧ (∃ t, exec (.recv 0#7 1#1) held = .next t) ∧
    ∃ t, exec (.stop 0#8) held = .next t :=
  ⟨⟨_, rfl⟩, ⟨_, rfl⟩, ⟨_, rfl⟩, ⟨_, rfl⟩, ⟨_, rfl⟩⟩

theorem witness_RawCommandBusFrame :
    (enabled.sstat.busy = false → enabled.pending = []) ∧ (held.sstat.busy = false → held.pending = []) ∧
    (∃ t, exec (.start 0#8) enabled = .next t) ∧ (∃ t, exec (.restart 0#8) held = .next t) ∧
    (∃ t, exec (.stop 0#8) held = .next t) ∧ (∃ t, exec (.send 0#8) held = .next t) ∧
    ∃ t, exec (.recv 0#7 1#1) held = .next t :=
  ⟨fun _ => rfl, fun _ => rfl, ⟨_, rfl⟩, ⟨_, rfl⟩, ⟨_, rfl⟩, ⟨_, rfl⟩, ⟨_, rfl⟩⟩

theorem witness_RegisterWriteFrame :
    (enabled.sstat.busy = false → enabled.pending = []) ∧ (∃ t, exec (.pwron 0#8) enabled = .next t) ∧
    (∃ t, exec (.pwroff 0#8) enabled = .next t) ∧ ∃ t, exec (.settim 0#8) enabled = .next t :=
  ⟨fun _ => rfl, ⟨_, rfl⟩, ⟨_, rfl⟩, ⟨_, rfl⟩⟩

theorem witness_RegisterReadFrame :
    (∃ t, exec (.rdid 0#8) enabled = .next t) ∧ (∃ t, exec (.rdch 0#7 0#1) enabled = .next t) ∧
    (∃ t, exec (.rdch 0#7 1#1) enabled = .next t) ∧ ∃ t, exec (.rdlux 0#8) enabled = .next t :=
  ⟨⟨_, rfl⟩, ⟨_, rfl⟩, ⟨_, rfl⟩, ⟨_, rfl⟩⟩

theorem witness_InitFrame : ∃ t, exec (.init 0#8) enabled = .next t := ⟨_, rfl⟩

theorem witness_CommandRunsTurnByTurn :
    let s := { enabled with schedule := grant startProgram [ok 0#8] }
    s.sstat.busy = false ∧ s.i2ccon.on = true ∧ violates (.start 0#8) s = false ∧
      ∃ t, exec (.start 0#8) s = .next t :=
  ⟨rfl, rfl, rfl, _, rfl⟩

theorem run_eq_stateOf (k : Nat) (s : State) :
    Sys2Proof.core.run k s = .next (stateOf (Sys2Proof.core.run k s)) := by
  obtain ⟨t, ht⟩ := run_next k s
  rw [ht]
  rfl

/-- The state after `k` raw commands of the expansion of `SETTIM 0x02`, answered by `xs`. -/
def rawState (xs : List Answer) (k : Nat) : State :=
  stateOf (Sys2Proof.core.run k
    { enabled with schedule := rawSchedule enabled.cfg (programOf enabled.cfg (.settim 2#8)) xs ++ [] })

theorem witness_SensorCommandEqualsRawExpansion :
    let xs := [ok 0#8, ok 0#8, absent 0#8, ok 0#8, ok 0#8]
    0x10 ≤ (Instr.settim 2#8).opcode.toNat ∧ 0x10 ≤ (Instr.init 0#8).opcode.toNat ∧
    enabled.ready = true ∧ enabled.sstat.owned = false ∧
    ((programOf enabled.cfg (.settim 2#8)).map MicroStep.completions).sum ≤ xs.length ∧
    (∃ t, Sys2Proof.core.run 1
      { enabled with
        schedule := .host (HostPort.write cmdReg (encode (.settim 2#8))) ::
          grant (programOf enabled.cfg (.settim 2#8)) xs ++ [] } = .next t) ∧
    (rawState xs 3).sstat.noack = true ∧ (rawState xs 5).sstat.noack = false ∧
    ∀ k, k ≤ rawCount (programOf enabled.cfg (.settim 2#8)) →
      Sys2Proof.core.run k
        { enabled with schedule := rawSchedule enabled.cfg (programOf enabled.cfg (.settim 2#8)) xs ++ [] } =
          .next (rawState xs k) := by
  refine ⟨by decide, by decide, by decide, by decide, by decide, run_next 1 _, by decide, by decide, fun k _ => ?_⟩
  exact run_eq_stateOf k _

theorem witness_ScanRecoversTheTrace :
    tracePos [.start, .tx 0x72#8 0#1, .stop] = some .free ∧ tracePos [.start, .rxd 0#8, .mack 1#1] = some .held ∧
    tracePos [.start, .rxd 0xFF#8] = some .byteIn ∧ tracePos [] = some .free ∧
    held.coherent = true ∧ held.sstat.owned = true ∧ held.i2ccon.on = true ∧
    enabled.coherent = true ∧ enabled.sstat.owned = false := by
  decide

theorem witness_StretchingDoesNotChangeTheEvents :
    held.divisors.length = held.trace.length ∧ held.trace ≠ [] ∧ (∀ d ∈ held.divisors, 0 < (fun _ : Word => 1) d) ∧
    stretched true [(driven .master false true, 0, 0), (driven .master true true, 1, 2)] =
      [driven .master false true, (driven .master true true).clockHeld, (driven .master true true).clockHeld,
        driven .master true true, driven .master true true] :=
  ⟨rfl, by decide, fun _ _ => Nat.one_pos, rfl⟩

end Sys2Proof.Tests
end

section
/-! The statements of spec/00_scope.md: what one step is (R18, R131), that the parameters are static (R12), and that the
bus trace of a coherent state is well bracketed (R93). -/

namespace Sys2Proof.Machine

/-! ## One step is one turn -/

/-- With a turn to come, a step is that turn, taken where the schedule has moved past it. -/
theorem step_of_schedule_cons {s : State} {t : Turn} {rest : List Turn} (h : s.schedule = t :: rest) :
    step s = turn t (s.nextTurn rest) := by
  unfold step
  rw [h]

/-- With no turn to come, a step only ends the diagnostic pulse. -/
theorem step_of_schedule_nil {s : State} (h : s.schedule = []) : step s = .next (s.nextTurn []) := by
  unfold step
  rw [h]

/-- The turns to come do not select the micro-program. -/
@[simp] theorem State.nextTurn_program (s : State) (rest : List Turn) : (s.nextTurn rest).program = s.program := rfl

/-- A host access that does not write is its read side. -/
theorem hostTurn_of_read {p : HostPort} (h : p.we = false) (s : State) : hostTurn p s = .next (s.hostRead p) := by
  simp [hostTurn, h]

/-- A host access that writes another register than `CMD` is its read side, then the write (R71). -/
theorem hostTurn_of_write {p : HostPort} (h : p.we = true) (ha : p.addr ≠ cmdReg) (s : State) :
    hostTurn p s = .next ((s.hostRead p).hostWrite p.addr p.wdata) := by
  simp [hostTurn, h, ha]

/-- A host access that writes `CMD` is its read side, then the examination of the word (R36, R71). -/
theorem hostTurn_of_command {p : HostPort} (h : p.we = true) (ha : p.addr = cmdReg) (s : State) :
    hostTurn p s = issueWord p.wdata (s.hostRead p) := by
  simp [hostTurn, h, ha]

/-- A word with an illegal opcode is refused, or lost while a command runs (R115, R300). -/
theorem issueWord_of_illegal {w : Word} {o : Byte} (h : decode w = .illegal o) (s : State) :
    issueWord w s = .next (issueIllegal w s) := by
  simp [issueWord, h]

/-- A read in the same access as a write delivers a free value (R71, log entry 7). -/
theorem State.hostRead_of_both {p : HostPort} (hr : p.re = true) (hw : p.we = true) (s : State) :
    s.hostRead p = s.freeRead := by
  simp [State.hostRead, hr, hw]

/-- Settles O8: the schedule's first turn is the step, and each kind of turn has its own rule. -/
theorem stepTakesOneTurn : Obligations.StepTakesOneTurn := by
  refine ⟨?sequencer, ?engine, ?delayPin, ?read, ?write, ?command, ?reset, ?both, ?nothing⟩
  case sequencer =>
    intro s rest h
    rw [step_of_schedule_cons h, turn, blockTurn, s.nextTurn_program]
  case engine =>
    intro s x rest h
    rw [step_of_schedule_cons h, turn, blockTurn]
  case delayPin =>
    intro s level rest h
    rw [step_of_schedule_cons h, turn, blockTurn, State.setDlyDone, State.nextTurn]
  case read =>
    intro s p rest h hw
    rw [step_of_schedule_cons h, turn, hostTurn_of_read hw]
  case write =>
    intro s p rest h hw ha
    rw [step_of_schedule_cons h, turn, hostTurn_of_write hw ha]
  case command =>
    intro s p rest h hw ha
    have hstep : step s = issueWord p.wdata ((s.nextTurn rest).hostRead p) := by
      rw [step_of_schedule_cons h, turn, hostTurn_of_command hw ha]
    exact ⟨hstep, fun o ho => hstep.trans (issueWord_of_illegal ho _)⟩
  case reset =>
    intro s rest h
    rw [step_of_schedule_cons h, turn]
  case both =>
    intro s p hr hw
    rw [s.hostRead_of_both hr hw, State.freeRead]
  case nothing =>
    intro s h
    rw [step_of_schedule_nil h, State.nextTurn, h]

/-! ## The parameters are static -/

/-- A completion step keeps the parameters. -/
@[simp] theorem State.complete_cfg (s : State) (x : Answer) (a : EngAct) : (s.complete x a).cfg = s.cfg := by
  cases a <;> rfl

/-- An engine turn keeps the parameters. -/
@[simp] theorem engineTurn_cfg (x : Answer) (s : State) : (engineTurn x s).cfg = s.cfg := by
  obtain ⟨a, -, -, h⟩ | h := engineTurn_cases x s
  · rw [h, State.complete_cfg]
  · rw [h]

/-! The register transfers that depend on a choice or on the state, one lemma each. -/

@[simp] theorem State.storeReceived_cfg (s : State) (d : RecvDst) : (s.storeReceived d).cfg = s.cfg := by
  cases d <;> rfl

@[simp] theorem State.latch_cfg (s : State) (c : Channel) : (s.latch c).cfg = s.cfg := by
  cases c <;> rfl

@[simp] theorem State.checkId_cfg (s : State) : s.checkId.cfg = s.cfg := by
  unfold State.checkId
  split
  · rfl
  · exact s.raise_cfg .badid

@[simp] theorem State.conv_cfg (s : State) : s.conv.cfg = s.cfg := by
  unfold State.conv
  dsimp only
  split <;> simp

/-- A sequencer turn in any micro-step keeps the parameters: each of its outcomes does. -/
@[simp] theorem microTurn_cfg (m : MicroStep) (s : State) : (microTurn m s).cfg = s.cfg := by
  cases m with
  | start => obtain ⟨-, h⟩ | ⟨-, -, h⟩ | ⟨-, -, h⟩ := startPrimitive_cases s <;> simp [microTurn, h]
  | restart => obtain ⟨-, h⟩ | ⟨-, -, h⟩ | ⟨-, -, h⟩ := restartPrimitive_cases s <;> simp [microTurn, h]
  | send b =>
    obtain ⟨-, h⟩ | ⟨-, -, h⟩ | ⟨-, -, -, h⟩ | ⟨-, -, -, h⟩ := sendPrimitive_cases b s <;> simp [microTurn, h]
  | recv n d =>
    obtain ⟨-, h⟩ | ⟨-, -, h⟩ | ⟨-, -, h⟩ | ⟨-, -, h⟩ | ⟨-, -, h⟩ := recvPrimitive_cases n d s <;>
      simp [microTurn, h]
  | stop => obtain ⟨-, h⟩ | ⟨-, -, h⟩ | ⟨-, -, h⟩ := stopPrimitive_cases s <;> simp [microTurn, h]
  | delay ms => obtain ⟨-, h⟩ | ⟨-, -, h⟩ | ⟨-, -, h⟩ := delayPrimitive_cases ms s <;> simp [microTurn, h]
  | latch c => simp [microTurn]
  | checkId => simp [microTurn]
  | conv => simp [microTurn]
  | sessionClear x => simp [microTurn]
  | sessionFromId => simp [microTurn]
  | sessionReady => simp [microTurn]
  | done v => simp [microTurn]

/-- Every turn of the block and its environment keeps the parameters. -/
@[simp] theorem blockTurn_cfg (prog : List MicroStep) (t : Turn) (s : State) : (blockTurn prog t s).cfg = s.cfg := by
  cases t with
  | sequencer =>
    obtain ⟨m, -, -, h⟩ | h := sequencerTurn_cases prog s
    · rw [blockTurn, h, microTurn_cfg]
    · rw [blockTurn, h]
  | engine x => exact engineTurn_cfg x s
  | delayPin level => exact s.setDlyDone_cfg level
  | host p => rfl
  | reset => rfl

/-- A whole run of a command keeps the parameters. -/
@[simp] theorem runCommand_cfg (prog : List MicroStep) (s : State) : (runCommand prog s).cfg = s.cfg :=
  runTurns_keeps (P := fun u => u.cfg = s.cfg) (fun _ _ _ _ hu => by simpa using hu) s.schedule s rfl

/-- A command, however its issue ends, keeps the parameters (R12). -/
theorem exec_cfg {i : Instr} {s t : State} (h : exec i s = .next t) : t.cfg = s.cfg := by
  rw [exec_eq_issue] at h
  obtain ⟨-, hi⟩ | ⟨-, -, hi⟩ | ⟨-, -, -, hi⟩ | ⟨-, -, -, hi⟩ := issue_cases i (violates i s) (programOf s.cfg i) s
  all_goals
    cases hi.symm.trans h
    simp

/-- An illegal word, refused or lost, keeps the parameters. -/
@[simp] theorem issueIllegal_cfg (w : Word) (s : State) : (issueIllegal w s).cfg = s.cfg := by
  unfold issueIllegal
  split <;> simp

/-- So does any word written to `CMD`. -/
theorem issueWord_cfg {w : Word} {s t : State} (h : issueWord w s = .next t) : t.cfg = s.cfg := by
  obtain ⟨i, -, -, hw⟩ | ⟨-, hw⟩ := issueWord_cases w s
  · exact exec_cfg (hw ▸ h)
  · cases hw.symm.trans h
    exact issueIllegal_cfg w s

/-- The two sides of a host access keep the parameters. -/
@[simp] theorem State.hostRead_cfg (s : State) (p : HostPort) : (s.hostRead p).cfg = s.cfg := by
  obtain ⟨-, h⟩ | ⟨-, -, h⟩ | ⟨-, -, h⟩ := s.hostRead_cases p <;> simp [h]

@[simp] theorem State.hostWrite_cfg (s : State) (r : BitVec 4) (v : Word) : (s.hostWrite r v).cfg = s.cfg := by
  obtain ⟨-, -, -, h⟩ | ⟨-, -, -, h⟩ | ⟨-, h⟩ := s.hostWrite_cases r v <;> simp [h]

/-- Reset gives every register its value of R50, but the parameters are no registers (R12, R290). -/
@[simp] theorem State.resetBlock_cfg (s : State) : s.resetBlock.cfg = s.cfg := rfl

/-- Settles O50: each kind of step keeps the parameters, by the lemma about it. -/
theorem parametersNeverChange : Obligations.ParametersNeverChange := by
  intro s t h
  obtain ⟨-, hs⟩ | ⟨p, rest, -, -, -, hs⟩ | ⟨p, rest, -, -, -, hs⟩ | ⟨p, rest, -, -, hs⟩ | ⟨rest, -, hs⟩ |
    ⟨u, rest, -, -, hs⟩ := step_cases s
  case inr.inl => exact (issueWord_cfg (hs.symm.trans h)).trans (by simp)
  all_goals
    cases hs.symm.trans h
    simp

/-! ## The brackets of the bus trace -/

/-- Some `S` of the trace has no `P` after it. -/
def StartOpen (tr : List BusEvent) : Prop := ∃ u v, tr = u ++ .start :: v ∧ BusEvent.stop ∉ v

/-- The empty trace has no `S`. -/
theorem not_startOpen_nil : ¬ StartOpen [] := by
  rintro ⟨u, v, h, -⟩
  simp at h

/-- After one more event an `S` is open if the event is that `S`, or if one was open before and the event is no `P`. -/
theorem startOpen_concat (tr : List BusEvent) (e : BusEvent) :
    StartOpen (tr ++ [e]) ↔ e = .start ∨ (e ≠ .stop ∧ StartOpen tr) := by
  constructor
  · rintro ⟨u, v, h, hv⟩
    obtain rfl | ⟨v', e', rfl⟩ := v.eq_nil_or_concat'
    · exact .inl (List.singleton_inj.1 (List.append_inj_right' h rfl))
    · have h : tr ++ [e] = (u ++ .start :: v') ++ [e'] := by simpa using h
      obtain ⟨rfl, he⟩ := List.append_inj' h rfl
      obtain rfl := List.singleton_inj.1 he
      simp only [List.mem_append, List.mem_singleton, not_or] at hv
      exact .inr ⟨Ne.symm hv.2, u, v', rfl, hv.1⟩
  · rintro (rfl | ⟨he, u, v, rfl, hv⟩)
    · exact ⟨tr, [], rfl, List.not_mem_nil⟩
    · exact ⟨u, v ++ [e], by simp, by simp [hv, Ne.symm he]⟩

/-- A trace is read event by event. -/
theorem tracePos_concat (tr : List BusEvent) (e : BusEvent) :
    tracePos (tr ++ [e]) = (tracePos tr).bind (fun q => q.next e) := by
  simp [tracePos]

/-- One event keeps the two readings of "a transaction is open" in step: `S` opens one, `P` closes it, and every other
event stands inside one. -/
theorem BusPos.next_ne_free_iff {q p : BusPos} {e : BusEvent} (h : q.next e = some p) :
    p ≠ .free ↔ e = .start ∨ (e ≠ .stop ∧ q ≠ .free) := by
  cases q <;> cases e <;> cases h <;> simp

/-- In a trace of the language of R93 an `S` is open exactly when the trace does not stand at `free`. -/
theorem tracePos_ne_free_iff {tr : List BusEvent} {p : BusPos} (h : tracePos tr = some p) :
    p ≠ .free ↔ StartOpen tr := by
  induction tr using List.reverseRecOn generalizing p with
  | nil =>
    cases h
    simp [not_startOpen_nil]
  | append_singleton tr e ih =>
    rw [tracePos_concat] at h
    obtain ⟨q, hq, hp⟩ := Option.bind_eq_some_iff.1 h
    rw [BusPos.next_ne_free_iff hp, ih hq, startOpen_concat]

/-- The trace is in the language of R93, and `OWNED` agrees with where it stands. -/
def State.Bracketed (s : State) : Prop := ∃ p, tracePos s.trace = some p ∧ (s.sstat.owned = true ↔ p ≠ .free)

/-- `shows` says so, for its position. -/
theorem State.bracketed_of_shows {s : State} {pending : List EngAct} {rbf dlyReq : Bool} {pos : BusPos}
    (h : s.shows pending rbf dlyReq pos = true) : s.Bracketed := by
  simp only [State.shows, Bool.and_eq_true, beq_iff_eq] at h
  obtain ⟨⟨-, htrace⟩, howned⟩ := h
  exact ⟨pos, htrace, by simp [howned]⟩

/-- So does a choice of two positions, before and after the engine's completion step. -/
theorem State.bracketed_of_shows_or {s : State} {pending pending' : List EngAct} {rbf rbf' dlyReq dlyReq' : Bool}
    {pos pos' : BusPos} (h : (s.shows pending rbf dlyReq pos || s.shows pending' rbf' dlyReq' pos') = true) :
    s.Bracketed :=
  (Bool.or_eq_true_iff.1 h).elim bracketed_of_shows bracketed_of_shows

/-- In every phase of every micro-step the state shows some position: a request stands at one, an await of the engine at
one of two, a phase that the micro-step does not have at none. -/
theorem bracketed_of_microStepCoherent {held : Bool} {m : MicroStep} {s : State}
    (h : microStepCoherent held m s = true) : s.Bracketed := by
  unfold microStepCoherent at h
  split at h
  case h_1 | h_3 | h_5 | h_7 | h_10 | h_13 => exact State.bracketed_of_shows (Bool.and_elim_right h)
  case h_2 | h_4 | h_6 | h_8 | h_9 | h_11 => exact State.bracketed_of_shows_or (Bool.and_elim_right h)
  case h_12 | h_14 => exact State.bracketed_of_shows h
  case h_15 => cases h

/-- A coherent state shows some position, with a command running or without. -/
theorem State.bracketed_of_coherent {s : State} (h : s.coherent = true) : s.Bracketed := by
  unfold State.coherent at h
  split at h
  · split at h
    · have hstep := Bool.and_elim_right h
      split at hstep
      · exact bracketed_of_microStepCoherent hstep
      · cases hstep
    · cases h
  · exact bracketed_of_shows (Bool.and_elim_right h)

/-- Settles O48: a coherent state shows a position of its trace that agrees with `OWNED`, and in the language of R93 that
position tells whether an `S` is open. -/
theorem traceBracketsAgreeWithOwned : Obligations.TraceBracketsAgreeWithOwned := by
  intro s h
  obtain ⟨p, hp, howned⟩ := s.bracketed_of_coherent h
  exact ⟨⟨p, hp, howned⟩, howned.trans (tracePos_ne_free_iff hp)⟩

end Sys2Proof.Machine
end

section
/-! What a turn can write. The state is cut into parts, a table says which parts each micro-step and each completion
step of the engine write, and a command's run leaves every part that none of its steps writes. -/

namespace Sys2Proof.Machine

/-! ## The parts of the state -/

/-- The parts of the state that the rules write independently of each other. -/
inductive Part where
  /-- The parameters, the configuration and the host's read data: no turn of the block writes them. -/
  | fixed
  /-- `CMD`, `SEQ.op`, `SEQ.arg`, `CMDERR` and `ERRC`: what the examination of a word leaves. -/
  | command
  | ovr
  | sfault
  | badid
  | owned
  /-- `SESSION` and `IDWARN`. -/
  | session
  | ch0
  | ch1
  | lux
  | idr
  | seqLo
  /-- `dly_req`, `dly_ms` and the delay-request list. -/
  | delayPort
  | diags
  | i2ctrn
  | i2crcv
  | ackstat
  | trstat
  | rbf
  | i2ccon
  | ackdt
  /-- The turns to come. -/
  | schedule
  deriving DecidableEq

/-- Two states agree in a part. -/
def Part.Same : Part → State → State → Prop
  | .fixed, s, t => t.cfg = s.cfg ∧ t.i2cbrg = s.i2cbrg ∧ t.i2ccon.on = s.i2ccon.on ∧
      t.i2ccon.disslw = s.i2ccon.disslw ∧ t.hRdata = s.hRdata ∧ t.freeCount = s.freeCount
  | .command, s, t => t.cmd = s.cmd ∧ t.seqOp = s.seqOp ∧ t.seqArg = s.seqArg ∧
      t.sstat.cmderr = s.sstat.cmderr ∧ t.sstat.errc = s.sstat.errc
  | .ovr, s, t => t.sstat.ovr = s.sstat.ovr
  | .sfault, s, t => t.sstat.sfault = s.sstat.sfault
  | .badid, s, t => t.sstat.badid = s.sstat.badid
  | .owned, s, t => t.sstat.owned = s.sstat.owned
  | .session, s, t => t.sstat.session = s.sstat.session ∧ t.sstat.idwarn = s.sstat.idwarn
  | .ch0, s, t => t.ch0 = s.ch0
  | .ch1, s, t => t.ch1 = s.ch1
  | .lux, s, t => t.lux = s.lux
  | .idr, s, t => t.idr = s.idr
  | .seqLo, s, t => t.seqLo = s.seqLo
  | .delayPort, s, t => t.dlyReq = s.dlyReq ∧ t.dlyMs = s.dlyMs ∧ t.delays = s.delays
  | .diags, s, t => t.diags = s.diags
  | .i2ctrn, s, t => t.i2ctrn = s.i2ctrn
  | .i2crcv, s, t => t.i2crcv = s.i2crcv
  | .ackstat, s, t => t.i2cstat.ackstat = s.i2cstat.ackstat
  | .trstat, s, t => t.i2cstat.trstat = s.i2cstat.trstat
  | .rbf, s, t => t.i2cstat.rbf = s.i2cstat.rbf
  | .i2ccon, s, t => t.i2ccon = s.i2ccon
  | .ackdt, s, t => t.i2ccon.ackdt = s.i2ccon.ackdt
  | .schedule, s, t => t.schedule = s.schedule

theorem Part.Same.refl (f : Part) (s : State) : f.Same s s := by
  cases f <;> simp [Part.Same]

theorem Part.Same.trans {f : Part} {s t u : State} (h : f.Same s t) (h' : f.Same t u) : f.Same s u := by
  cases f <;> simp_all [Part.Same]

/-- The parts a completion step of the engine writes (R132 to R137). -/
def EngAct.writes : EngAct → Part → Bool
  | .idle, _ => false
  | .tx, f => f == .ackstat || f == .trstat
  | .rx, f => f == .i2ccon || f == .i2crcv || f == .rbf
  | .start, f => f == .i2ccon || f == .owned
  | .stop, f => f == .i2ccon || f == .owned
  | .restart, f => f == .i2ccon
  | .ack, f => f == .i2ccon

/-- The part a received byte goes to. -/
def RecvDst.writes : RecvDst → Part → Bool
  | .none, _ => false
  | .seqLo, f => f == .seqLo
  | .idr, f => f == .idr

/-- The part that holds a channel. -/
def Channel.part : Channel → Part
  | .ch0 => .ch0
  | .ch1 => .ch1

/-- The parts that a sequencer turn in a micro-step writes (R140 to R148, R179, R181, R194, R224, R279). -/
def MicroStep.writes : MicroStep → Part → Bool
  | .start, f => f == .i2ccon
  | .restart, f => f == .i2ccon
  | .stop, f => f == .i2ccon
  | .send _, f => f == .i2ctrn || f == .trstat || f == .diags
  | .recv _ d, f => f == .i2ccon || f == .rbf || f == .ackdt || d.writes f
  | .delay _, f => f == .delayPort
  | .latch c, f => f == c.part
  | .checkId, f => f == .badid || f == .diags
  | .conv, f => f == .lux || f == .sfault || f == .diags
  | .sessionClear _, f => f == .session
  | .sessionFromId, f => f == .session
  | .sessionReady, f => f == .session
  | .done _, _ => false

/-- The operations a micro-step asks the engine for. -/
def MicroStep.requests : MicroStep → List EngAct
  | .start => [.start]
  | .restart => [.restart]
  | .stop => [.stop]
  | .send _ => [.tx]
  | .recv _ _ => [.rx, .ack]
  | _ => []

/-! ## What one turn leaves -/

/-! One lemma per operation: it leaves the parts it does not write. -/

theorem State.complete_same {a : EngAct} {f : Part} (h : a.writes f = false) (x : Answer) (s : State) :
    f.Same s (s.complete x a) := by
  cases a <;> cases f <;> simp_all [EngAct.writes, Part.Same, State.complete]

theorem State.storeReceived_same {d : RecvDst} {f : Part} (h : d.writes f = false) (s : State) :
    f.Same s (s.storeReceived d) := by
  cases d <;> cases f <;> simp_all [RecvDst.writes, Part.Same, State.storeReceived]

theorem State.latch_same {c : Channel} {f : Part} (h : f ≠ c.part) (s : State) : f.Same s (s.latch c) := by
  cases c <;> cases f <;> simp_all [Channel.part, Part.Same, State.latch]

theorem State.advance_same (f : Part) (s : State) : f.Same s s.advance := by
  cases f <;> simp [Part.Same]

theorem State.done_same (f : Part) (s : State) (v : Word) : f.Same s (s.done v) := by
  cases f <;> simp [Part.Same]

theorem State.setSession_same {f : Part} (h : f ≠ .session) (s : State) (x : Session) (w : Bool) :
    f.Same s (s.setSession x w) := by
  cases f <;> simp_all [Part.Same]

theorem State.storeLux_same {f : Part} (h : f ≠ .lux) (s : State) (l : Nat) : f.Same s (s.storeLux l) := by
  cases f <;> simp_all [Part.Same]

/-- The part that holds the flag of a fault; `NOACK` stands in none. -/
def Diag.flagPart : Diag → Part
  | .noack => .diags
  | .sfault => .sfault
  | .badid => .badid

theorem State.raise_same {f : Part} {d : Diag} (hd : f ≠ .diags) (h : f ≠ d.flagPart) (s : State) :
    f.Same s (s.raise d) := by
  cases d <;> cases f <;> simp_all [Part.Same, Sstat.setFlag, Diag.flagPart]

theorem State.checkId_same {f : Part} (hd : f ≠ .diags) (h : f ≠ .badid) (s : State) : f.Same s s.checkId := by
  unfold State.checkId
  split
  · exact .refl f s
  · exact s.raise_same (d := .badid) hd h

theorem State.conv_same {f : Part} (hd : f ≠ .diags) (hf : f ≠ .sfault) (hl : f ≠ .lux) (s : State) :
    f.Same s s.conv := by
  unfold State.conv
  dsimp only
  split
  · exact (s.storeLux_same hl _).trans (State.raise_same (d := .sfault) hd hf _)
  · exact s.storeLux_same hl _

/-- A sequencer turn leaves the parts that its micro-step does not write, in each of its outcomes. -/
theorem microTurn_same {m : MicroStep} {f : Part} (h : m.writes f = false) (s : State) : f.Same s (microTurn m s) := by
  cases m with
  | start =>
    obtain ⟨-, e⟩ | ⟨-, -, e⟩ | ⟨-, -, e⟩ := startPrimitive_cases s <;>
      cases f <;> simp_all [MicroStep.writes, Part.Same, microTurn]
  | restart =>
    obtain ⟨-, e⟩ | ⟨-, -, e⟩ | ⟨-, -, e⟩ := restartPrimitive_cases s <;>
      cases f <;> simp_all [MicroStep.writes, Part.Same, microTurn]
  | stop =>
    obtain ⟨-, e⟩ | ⟨-, -, e⟩ | ⟨-, -, e⟩ := stopPrimitive_cases s <;>
      cases f <;> simp_all [MicroStep.writes, Part.Same, microTurn]
  | send b =>
    obtain ⟨-, e⟩ | ⟨-, -, e⟩ | ⟨-, -, -, e⟩ | ⟨-, -, -, e⟩ := sendPrimitive_cases b s <;>
      cases f <;> simp_all [MicroStep.writes, Part.Same, microTurn, Sstat.setFlag]
  | recv n d =>
    simp only [MicroStep.writes, Bool.or_eq_false_iff] at h
    obtain ⟨h, hd⟩ := h
    obtain ⟨-, e⟩ | ⟨-, -, e⟩ | ⟨-, -, e⟩ | ⟨-, -, e⟩ | ⟨-, -, e⟩ := recvPrimitive_cases n d s
    case inr.inr.inr.inr =>
      rw [microTurn, e]
      exact (s.storeReceived_same hd).trans (State.advance_same f _)
    all_goals cases f <;> simp_all [Part.Same, microTurn]
  | delay ms =>
    obtain ⟨-, e⟩ | ⟨-, -, e⟩ | ⟨-, -, e⟩ := delayPrimitive_cases ms s <;>
      cases f <;> simp_all [MicroStep.writes, Part.Same, microTurn]
  | latch c =>
    exact (s.latch_same (by simpa [MicroStep.writes] using h)).trans (State.advance_same f _)
  | checkId =>
    obtain ⟨h1, h2⟩ : f ≠ .badid ∧ f ≠ .diags := by simpa [MicroStep.writes] using h
    exact (s.checkId_same h2 h1).trans (State.advance_same f _)
  | conv =>
    obtain ⟨⟨h1, h2⟩, h3⟩ : (f ≠ .lux ∧ f ≠ .sfault) ∧ f ≠ .diags := by simpa [MicroStep.writes] using h
    exact (s.conv_same h3 h2 h1).trans (State.advance_same f _)
  | sessionClear x =>
    exact (s.setSession_same (by simpa [MicroStep.writes] using h) _ _).trans (State.advance_same f _)
  | sessionFromId =>
    exact (s.setSession_same (by simpa [MicroStep.writes] using h) _ _).trans (State.advance_same f _)
  | sessionReady =>
    exact (s.setSession_same (by simpa [MicroStep.writes] using h) _ _).trans (State.advance_same f _)
  | done v => exact s.done_same f _

/-! ## The requests -/

/-- An operation is pending exactly when its request bit, or `TRSTAT`, is 1 (R28). -/
theorem State.mem_pending_iff (s : State) (a : EngAct) :
    a ∈ s.pending ↔ match a with
      | .idle => False
      | .start => s.i2ccon.sen = true
      | .restart => s.i2ccon.rsen = true
      | .stop => s.i2ccon.pen = true
      | .tx => s.i2cstat.trstat = true
      | .rx => s.i2ccon.rcen = true
      | .ack => s.i2ccon.acken = true := by
  cases a <;> simp [State.pending]

/-- A completion step clears its own request and no other. -/
theorem State.mem_complete_pending (s : State) (x : Answer) (a b : EngAct) :
    b ∈ (s.complete x a).pending ↔ b ∈ s.pending ∧ b ≠ a := by
  cases a <;> cases b <;> simp [State.mem_pending_iff, State.complete]

/-- What does not touch the request bits and `TRSTAT` leaves what is pending. -/
theorem State.pending_congr {s t : State} (hc : t.i2ccon = s.i2ccon) (ht : t.i2cstat.trstat = s.i2cstat.trstat) :
    t.pending = s.pending := by
  rw [State.pending, hc, ht, State.pending]

/-- A sequencer turn asks for nothing but what its micro-step asks for. -/
theorem microTurn_pending {m : MicroStep} {s : State} {a : EngAct} (h : a ∈ (microTurn m s).pending) :
    a ∈ s.pending ∨ a ∈ m.requests := by
  by_cases hm : m.writes .i2ccon = false ∧ m.writes .trstat = false
  · rw [State.pending_congr (microTurn_same hm.1 s) (microTurn_same hm.2 s)] at h
    exact .inl h
  · cases m with
    | start =>
      obtain ⟨-, e⟩ | ⟨-, -, e⟩ | ⟨-, -, e⟩ := startPrimitive_cases s <;>
        cases a <;> simp_all [MicroStep.requests, microTurn, State.mem_pending_iff]
    | restart =>
      obtain ⟨-, e⟩ | ⟨-, -, e⟩ | ⟨-, -, e⟩ := restartPrimitive_cases s <;>
        cases a <;> simp_all [MicroStep.requests, microTurn, State.mem_pending_iff]
    | stop =>
      obtain ⟨-, e⟩ | ⟨-, -, e⟩ | ⟨-, -, e⟩ := stopPrimitive_cases s <;>
        cases a <;> simp_all [MicroStep.requests, microTurn, State.mem_pending_iff]
    | send b =>
      obtain ⟨-, e⟩ | ⟨-, -, e⟩ | ⟨-, -, -, e⟩ | ⟨-, -, -, e⟩ := sendPrimitive_cases b s <;>
        cases a <;> simp_all [MicroStep.requests, microTurn, State.mem_pending_iff]
    | recv n d =>
      obtain ⟨-, e⟩ | ⟨-, -, e⟩ | ⟨-, -, e⟩ | ⟨-, -, e⟩ | ⟨-, -, e⟩ := recvPrimitive_cases n d s <;>
        cases a <;> cases d <;>
          simp_all [MicroStep.requests, microTurn, State.mem_pending_iff, State.storeReceived]
    | latch c => cases c <;> simp [MicroStep.writes, Channel.part] at hm
    | _ => simp [MicroStep.writes] at hm

/-- The engine completes only what is pending. -/
theorem State.mem_pending_of_engAct {s : State} {a : EngAct} (h : s.engAct = some a) : a = .idle ∨ a ∈ s.pending := by
  unfold State.engAct at h
  split at h
  · exact .inl (Option.some.inj h).symm
  · rename_i hp
    obtain rfl := Option.some.inj h
    exact .inr (hp ▸ List.mem_singleton_self _)
  · cases h

/-! ## What a run leaves -/

/-- No step of `prog` writes the part `f` or asks for an operation outside `acts`, and no operation of `acts` writes it.
The turns to come are used up by the run itself. -/
def leaves (prog : List MicroStep) (acts : List EngAct) (f : Part) : Bool :=
  f != .schedule && prog.all (fun m => !m.writes f && m.requests.all acts.contains) && acts.all (fun a => !a.writes f)

theorem leaves_iff {prog : List MicroStep} {acts : List EngAct} {f : Part} :
    leaves prog acts f = true ↔
      f ≠ .schedule ∧ (∀ m ∈ prog, m.writes f = false ∧ m.requests ⊆ acts) ∧ ∀ a ∈ acts, a.writes f = false := by
  simp [leaves, List.subset_def, and_assoc]

theorem writes_of_leaves {prog : List MicroStep} {acts : List EngAct} {f : Part} (h : leaves prog acts f = true)
    {m : MicroStep} (hm : m ∈ prog) : m.writes f = false := by
  obtain ⟨-, hprog, -⟩ := leaves_iff.1 h
  exact (hprog m hm).1

/-- A block turn asks for no operation outside `acts` and keeps the part. -/
theorem blockTurn_same {prog : List MicroStep} {acts : List EngAct} {f : Part} (h : leaves prog acts f = true)
    (t : Turn) {s : State} (hs : s.pending ⊆ acts) :
    (blockTurn prog t s).pending ⊆ acts ∧ f.Same s (blockTurn prog t s) := by
  obtain ⟨-, hprog, hacts⟩ := leaves_iff.1 h
  cases t with
  | sequencer =>
    obtain ⟨m, -, hm, e⟩ | e := sequencerTurn_cases prog s
    · obtain ⟨hw, hr⟩ := hprog m (List.mem_of_getElem? hm)
      rw [blockTurn, e]
      exact ⟨fun a ha => (microTurn_pending ha).elim (@hs a) (@hr a), microTurn_same hw s⟩
    · rw [blockTurn, e]
      exact ⟨hs, .refl f s⟩
  | engine x =>
    obtain ⟨a, -, ha, e⟩ | e := engineTurn_cases x s
    · have hw : a.writes f = false := by
        obtain rfl | ha := State.mem_pending_of_engAct ha
        · rfl
        · exact hacts a (hs ha)
      rw [blockTurn, e]
      exact ⟨fun b hb => hs ((s.mem_complete_pending x a b).1 hb).1, State.complete_same hw x s⟩
    · rw [blockTurn, e]
      exact ⟨hs, .refl f s⟩
  | delayPin level => exact ⟨hs, by cases f <;> simp [Part.Same, blockTurn]⟩
  | host p => exact ⟨hs, .refl f s⟩
  | reset => exact ⟨hs, .refl f s⟩

/-- The move of the schedule keeps every other part. -/
theorem State.nextTurn_same {f : Part} (h : f ≠ .schedule) (s : State) (ts : List Turn) : f.Same s (s.nextTurn ts) := by
  cases f <;> simp_all [Part.Same]

/-- A command's whole run keeps the part. -/
theorem runTurns_same {prog : List MicroStep} {acts : List EngAct} {f : Part} (h : leaves prog acts f = true)
    (ts : List Turn) {s : State} (hs : s.pending ⊆ acts) : f.Same s (runTurns prog ts s) := by
  refine (runTurns_keeps (P := fun u => u.pending ⊆ acts ∧ f.Same s u) ?_ ts s ⟨hs, .refl f s⟩).2
  intro t u us _ ⟨hp, hf⟩
  obtain ⟨hp', hf'⟩ := blockTurn_same h t (s := u.nextTurn us) hp
  exact ⟨hp', hf.trans ((u.nextTurn_same (leaves_iff.1 h).1 us).trans hf')⟩

/-- Every operation of the engine. -/
def EngAct.all : List EngAct := [.idle, .start, .restart, .stop, .tx, .rx, .ack]

theorem EngAct.mem_all (a : EngAct) : a ∈ EngAct.all := by cases a <;> decide

/-- The parts that only the host's accesses write. -/
def Part.isStatic (f : Part) : Bool := f == .fixed || f == .command || f == .ovr

theorem MicroStep.writes_of_isStatic {f : Part} (hf : f.isStatic = true) (m : MicroStep) : m.writes f = false := by
  obtain (rfl | rfl) | rfl : (f = .fixed ∨ f = .command) ∨ f = .ovr := by simpa [Part.isStatic] using hf
  all_goals
    cases m with
    | recv n d => cases d <;> rfl
    | latch c => cases c <;> rfl
    | _ => rfl

/-- Every micro-program leaves them, whatever is pending. -/
theorem leaves_of_isStatic {f : Part} (hf : f.isStatic = true) (prog : List MicroStep) :
    leaves prog EngAct.all f = true := by
  refine leaves_iff.2 ⟨(by rintro rfl; cases hf), fun m _ => ⟨m.writes_of_isStatic hf, fun a _ => a.mem_all⟩, ?_⟩
  intro a _
  obtain (rfl | rfl) | rfl : (f = .fixed ∨ f = .command) ∨ f = .ovr := by simpa [Part.isStatic] using hf
  all_goals cases a <;> rfl

theorem MicroStep.writes_schedule (m : MicroStep) : m.writes .schedule = false := by
  cases m with
  | recv n d => cases d <;> rfl
  | latch c => cases c <;> rfl
  | _ => rfl

/-- No block turn changes the turns to come. -/
@[simp] theorem blockTurn_schedule (prog : List MicroStep) (t : Turn) (s : State) :
    (blockTurn prog t s).schedule = s.schedule := by
  cases t with
  | sequencer =>
    obtain ⟨m, -, -, e⟩ | e := sequencerTurn_cases prog s <;> rw [blockTurn, e]
    exact microTurn_same (f := .schedule) m.writes_schedule s
  | engine x =>
    obtain ⟨a, -, -, e⟩ | e := engineTurn_cases x s <;> rw [blockTurn, e]
    exact State.complete_same (f := .schedule) (by cases a <;> rfl) x s
  | _ => rfl

/-- The micro-program in progress stays the same. -/
theorem State.program_of_same {s t : State} (hf : Part.fixed.Same s t) (hc : Part.command.Same s t) :
    t.program = s.program := by
  obtain ⟨hcfg, -⟩ := hf
  obtain ⟨-, hop, harg, -⟩ := hc
  rw [State.program, hcfg, hop, harg, State.program]

@[simp] theorem blockTurn_program (prog : List MicroStep) (t : Turn) (s : State) :
    (blockTurn prog t s).program = s.program :=
  State.program_of_same (blockTurn_same (leaves_of_isStatic rfl prog) t fun a _ => a.mem_all).2
    (blockTurn_same (leaves_of_isStatic rfl prog) t fun a _ => a.mem_all).2

/-! ## What a command leaves -/

/-- The state in which the examination of `i`'s word leaves the machine: refused, or accepted with all its micro-steps
to come. -/
def State.Examined (i : Instr) (s u : State) : Prop :=
  (∃ c, u = (s.examine (encode i)).refuse c) ∨ u = (s.examine (encode i)).accept i.opcode i.operand

/-- A command is lost, or examined and then run; a refused one has no turn to take. -/
theorem exec_cases {i : Instr} {s t : State} (h : exec i s = .next t) :
    (s.sstat.busy = true ∧ t = s.overrun) ∨
      (s.sstat.busy = false ∧ ∃ u, s.Examined i u ∧ t = runTurns (programOf s.cfg i) s.schedule u) := by
  rw [exec_eq_issue] at h
  obtain ⟨hb, e⟩ | ⟨hb, -, e⟩ | ⟨hb, -, -, e⟩ | ⟨hb, -, -, e⟩ := issue_cases i (violates i s) (programOf s.cfg i) s
  all_goals
    cases e.symm.trans h
  · exact .inl ⟨hb, rfl⟩
  · exact .inr ⟨hb, _, .inl ⟨_, rfl⟩, by rw [runTurns_of_not_busy (by simpa using hb)]⟩
  · exact .inr ⟨hb, _, .inl ⟨_, rfl⟩, by rw [runTurns_of_not_busy (by simpa using hb)]⟩
  · exact .inr ⟨hb, _, .inr rfl, rfl⟩

/-- The parts that the examination of a word writes. -/
def Part.isExamined (f : Part) : Bool := f == .command || f == .sfault || f == .badid

theorem State.Examined.same {i : Instr} {s u : State} (h : s.Examined i u) {f : Part} (hf : f.isExamined = false) :
    f.Same s u := by
  obtain ⟨c, rfl⟩ | rfl := h <;> cases f <;> simp_all [Part.isExamined, Part.Same]

theorem State.Examined.pending {i : Instr} {s u : State} (h : s.Examined i u) : u.pending = s.pending := by
  obtain ⟨c, rfl⟩ | rfl := h <;> rfl

/-- A command, however its issue and its run end, leaves what the examination and its micro-program leave. -/
theorem exec_same {i : Instr} {s t : State} (h : exec i s = .next t) {f : Part} {acts : List EngAct}
    (hf : f.isExamined = false) (ho : f ≠ .ovr) (hl : leaves (programOf s.cfg i) acts f = true)
    (hs : s.sstat.busy = false → s.pending ⊆ acts) : f.Same s t := by
  obtain ⟨-, rfl⟩ | ⟨hb, u, hu, rfl⟩ := exec_cases h
  · cases f <;> simp_all [Part.Same]
  · exact (hu.same hf).trans (runTurns_same hl _ (hu.pending ▸ hs hb))

theorem exec_fixed {i : Instr} {s t : State} (h : exec i s = .next t) : Part.fixed.Same s t :=
  exec_same h rfl (by decide) (leaves_of_isStatic rfl _) fun _ a _ => a.mem_all

/-- `OVR` is set only by a lost word. -/
theorem exec_ovr {i : Instr} {s t : State} (h : exec i s = .next t) (hb : s.sstat.busy = false) :
    t.sstat.ovr = s.sstat.ovr := by
  obtain ⟨hb', -⟩ | ⟨-, u, hu, rfl⟩ := exec_cases h
  · simp [hb] at hb'
  · have hrun : Part.ovr.Same u (runTurns (programOf s.cfg i) s.schedule u) :=
      runTurns_same (leaves_of_isStatic rfl _) _ fun a _ => a.mem_all
    exact Part.Same.trans (f := .ovr) (hu.same rfl) hrun

/-- A fault flag is cleared when the word is examined and stays clear if no micro-step raises that fault. -/
theorem exec_sfault {i : Instr} {s t : State} (h : exec i s = .next t) (hb : s.sstat.busy = false)
    (hl : leaves (programOf s.cfg i) EngAct.all .sfault = true) : t.sstat.sfault = false := by
  obtain ⟨hb', -⟩ | ⟨-, u, hu, rfl⟩ := exec_cases h
  · simp [hb] at hb'
  · have hrun : Part.sfault.Same u (runTurns (programOf s.cfg i) s.schedule u) :=
      runTurns_same hl _ fun a _ => a.mem_all
    obtain ⟨c, rfl⟩ | rfl := hu <;> exact hrun

theorem exec_badid {i : Instr} {s t : State} (h : exec i s = .next t) (hb : s.sstat.busy = false)
    (hl : leaves (programOf s.cfg i) EngAct.all .badid = true) : t.sstat.badid = false := by
  obtain ⟨hb', -⟩ | ⟨-, u, hu, rfl⟩ := exec_cases h
  · simp [hb] at hb'
  · have hrun : Part.badid.Same u (runTurns (programOf s.cfg i) s.schedule u) :=
      runTurns_same hl _ fun a _ => a.mem_all
    obtain ⟨c, rfl⟩ | rfl := hu <;> exact hrun

end Sys2Proof.Machine
end

section
/-! The frames of the commands, under every schedule (R116, R150, R178, R179, R193, R222, R226): what a command's
micro-program does not write is as before, whether the command is lost, refused, hangs, is cut short, or ends. -/

namespace Sys2Proof.Machine

/-- Several parts at once. -/
theorem exec_same_all {i : Instr} {s t : State} (h : exec i s = .next t) {acts : List EngAct} (fs : List Part)
    (hl : fs.all (fun f => !f.isExamined && f != .ovr && leaves (programOf s.cfg i) acts f) = true)
    (hs : s.sstat.busy = false → s.pending ⊆ acts) : ∀ f ∈ fs, f.Same s t := by
  intro f hf
  have hf := List.all_eq_true.1 hl f hf
  simp only [Bool.and_eq_true, Bool.not_eq_true', bne_iff_ne] at hf
  obtain ⟨⟨hx, ho⟩, hl⟩ := hf
  exact exec_same h hx ho hl hs

/-- Settles O13: the examination puts the word into `CMD`, and no turn of the command writes it. -/
theorem cmdReadsAsLastExaminedWord : Obligations.CmdReadsAsLastExaminedWord := by
  intro s t w hb h
  have hcmd : t.cmd = w := by
    obtain ⟨i, rfl, -, e⟩ | ⟨-, e⟩ := issueWord_cases w s
    · obtain ⟨hb', -⟩ | ⟨-, u, hu, rfl⟩ := exec_cases (e.symm.trans h)
      · simp [hb] at hb'
      · obtain ⟨hrun, -⟩ : Part.command.Same u (runTurns (programOf s.cfg i) s.schedule u) :=
          runTurns_same (leaves_of_isStatic rfl _) _ fun a _ => a.mem_all
        obtain ⟨c, rfl⟩ | rfl := hu <;> exact hrun
    · cases e.symm.trans h
      simp [issueIllegal, hb]
  exact ⟨hcmd, hcmd⟩

/-- Settles O52: no micro-step of a raw command writes a result register, the session or the delay port. -/
theorem rawCommandFrame : Obligations.RawCommandFrame := by
  intro i s t hraw h
  have hparts : ∀ f ∈ [Part.ch0, .ch1, .lux, .idr, .seqLo, .session, .delayPort], f.Same s t := by
    refine exec_same_all h (acts := EngAct.all) _ ?_ fun _ a _ => a.mem_all
    cases i with
    | start | restart | send | recv | stop => rfl
    | _ => exact hraw.elim
  have hflags : leaves (programOf s.cfg i) EngAct.all .sfault = true ∧
      leaves (programOf s.cfg i) EngAct.all .badid = true := by
    cases i with
    | start | restart | send | recv | stop => exact ⟨rfl, rfl⟩
    | _ => exact hraw.elim
  obtain ⟨hcfg, hbrg, hon, hdisslw, hread, hfree⟩ := exec_fixed h
  simp only [List.forall_mem_cons, List.not_mem_nil, false_implies, implies_true, and_true] at hparts
  obtain ⟨hch0, hch1, hlux, hidr, hlo, ⟨hsession, hidwarn⟩, hreq, hms, hdelays⟩ := hparts
  exact ⟨hcfg, hbrg, hon, hdisslw, hch0, hch1, hlux, hidr, hlo, hsession, hidwarn, hreq, hms, hdelays, hread, hfree,
    fun hb => ⟨exec_ovr h hb, exec_sfault h hb hflags.1, exec_badid h hb hflags.2⟩⟩

/-- `I2CSTAT` is its three fields. -/
theorem I2cstat.eq_of_fields {a b : I2cstat} (hack : a.ackstat = b.ackstat) (htr : a.trstat = b.trstat)
    (hrbf : a.rbf = b.rbf) : a = b := by
  cases a
  cases b
  simp_all

/-- Settles O53: the only engine operations in a raw command's run are those of its own primitive. -/
theorem rawCommandBusFrame : Obligations.RawCommandBusFrame := by
  intro s t operand b unused n hpending
  have hs : ∀ acts : List EngAct, s.sstat.busy = false → s.pending ⊆ acts :=
    fun acts hb => by simp [hpending hb]
  refine ⟨?conditions, ?send, ?recv⟩
  case conditions =>
    intro h
    have hparts : ∀ f ∈ [Part.i2ctrn, .i2crcv, .ackstat, .trstat, .rbf, .ackdt, .diags], f.Same s t := by
      obtain h | h | h := h <;>
        exact exec_same_all h (acts := [.start, .restart, .stop]) _ rfl (hs _)
    simp only [List.forall_mem_cons, List.not_mem_nil, false_implies, implies_true, and_true, Part.Same] at hparts
    obtain ⟨htrn, hrcv, hack, htr, hrbf, hackdt, hdiags⟩ := hparts
    exact ⟨htrn, hrcv, I2cstat.eq_of_fields hack htr hrbf, hackdt, hdiags⟩
  case send =>
    intro h
    have hparts : ∀ f ∈ [Part.i2crcv, .rbf, .i2ccon, .owned], f.Same s t :=
      exec_same_all h (acts := [.tx]) _ rfl (hs _)
    simpa only [List.forall_mem_cons, List.not_mem_nil, false_implies, implies_true, and_true, Part.Same] using hparts
  case recv =>
    intro h
    have hparts : ∀ f ∈ [Part.i2ctrn, .ackstat, .trstat, .owned, .diags], f.Same s t :=
      exec_same_all h (acts := [.rx, .ack]) _ rfl (hs _)
    simpa only [List.forall_mem_cons, List.not_mem_nil, false_implies, implies_true, and_true, Part.Same] using hparts

/-- Settles O55: a register read writes its own result registers only. -/
theorem registerReadFrame : Obligations.RegisterReadFrame := by
  intro i s t hread h
  have keeps : ∀ fs : List Part,
      fs.all (fun f => !f.isExamined && f != .ovr && leaves (programOf s.cfg i) EngAct.all f) = true →
        ∀ f ∈ fs, f.Same s t :=
    fun fs hl => exec_same_all h fs hl fun _ a _ => a.mem_all
  have hparts : ∀ f ∈ [Part.session, .delayPort], f.Same s t := by
    apply keeps
    cases i with
    | rdid | rdlux => rfl
    | rdch u c => simp only [programOf]; cases channelOf c <;> rfl
    | _ => exact hread.elim
  obtain ⟨hcfg, hbrg, hon, hdisslw, hrdata, hfree⟩ := exec_fixed h
  simp only [List.forall_mem_cons, List.not_mem_nil, false_implies, implies_true, and_true] at hparts
  obtain ⟨⟨hsession, hidwarn⟩, hreq, hms, hdelays⟩ := hparts
  refine ⟨hcfg, hbrg, hon, hdisslw, hsession, hidwarn, hreq, hms, hdelays, hrdata, hfree, exec_ovr h, ?idRead,
    ?channelRead, ?luxRead⟩
  case idRead =>
    rintro x rfl
    have hown := keeps [.ch0, .ch1, .lux, .seqLo] rfl
    simp only [List.forall_mem_cons, List.not_mem_nil, false_implies, implies_true, and_true] at hown
    obtain ⟨hch0, hch1, hlux, hlo⟩ := hown
    exact ⟨hch0, hch1, hlux, hlo, fun hb => exec_sfault h hb rfl⟩
  case channelRead =>
    rintro u c rfl
    have hown : ∀ f ∈ [Part.lux, .idr], f.Same s t := by
      apply keeps
      simp only [programOf]
      cases channelOf c <;> rfl
    simp only [List.forall_mem_cons, List.not_mem_nil, false_implies, implies_true, and_true] at hown
    obtain ⟨hlux, hidr⟩ := hown
    refine ⟨hlux, hidr, ?other1, ?other0, fun hb => ⟨exec_sfault h hb ?_, exec_badid h hb ?_⟩⟩
    case other1 =>
      rintro rfl
      exact keeps [.ch1] rfl .ch1 (List.mem_singleton_self _)
    case other0 =>
      rintro rfl
      exact keeps [.ch0] rfl .ch0 (List.mem_singleton_self _)
    all_goals
      simp only [programOf]
      cases channelOf c <;> rfl
  case luxRead =>
    rintro x rfl
    exact ⟨keeps [.idr] rfl .idr (List.mem_singleton_self _), fun hb => exec_badid h hb rfl⟩

/-- Settles O56: `INIT` reads the ID register only, and converts nothing. -/
theorem initFrame : Obligations.InitFrame := by
  intro operand s t h
  have hparts : ∀ f ∈ [Part.ch0, .ch1, .lux, .seqLo], f.Same s t :=
    exec_same_all h (acts := EngAct.all) _ rfl fun _ a _ => a.mem_all
  obtain ⟨hcfg, hbrg, hon, hdisslw, hread, hfree⟩ := exec_fixed h
  simp only [List.forall_mem_cons, List.not_mem_nil, false_implies, implies_true, and_true] at hparts
  obtain ⟨hch0, hch1, hlux, hlo⟩ := hparts
  exact ⟨hcfg, hbrg, hon, hdisslw, hch0, hch1, hlux, hlo, hread, hfree,
    fun hb => ⟨exec_ovr h hb, exec_sfault h hb rfl⟩⟩

end Sys2Proof.Machine
end

section
/-! Coherence is kept by every step (R28, R93, R119, R138, R225). The table of what a state shows in each phase of each
micro-step is read once as an `↔`; then each kind of turn is shown to keep it. -/

namespace Sys2Proof.Machine

/-! ## What a state shows -/

theorem State.shows_iff {s : State} {pending : List EngAct} {rbf dlyReq : Bool} {pos : BusPos} :
    s.shows pending rbf dlyReq pos = true ↔
      s.divisors.length = s.trace.length ∧ s.pending = pending ∧ s.i2cstat.rbf = rbf ∧ s.dlyReq = dlyReq ∧
        tracePos s.trace = some pos ∧ (s.sstat.owned = true ↔ pos ≠ .free) := by
  cases ho : s.sstat.owned <;> cases pos <;> simp [State.shows, ho, and_assoc]

theorem State.pending_of_shows {s : State} {pending : List EngAct} {rbf dlyReq : Bool} {pos : BusPos}
    (h : s.shows pending rbf dlyReq pos = true) : s.pending = pending := by
  obtain ⟨-, hp, -⟩ := State.shows_iff.1 h
  exact hp

/-- A state in which nothing is requested. -/
abbrev State.quiet (s : State) (pos : BusPos) : Prop := s.shows [] false false pos = true

/-- Where the bus stands before an operation of the engine (R132 to R137). -/
def EngAct.before : EngAct → BusPos
  | .start => .free
  | .ack => .byteIn
  | _ => .held

/-- Where the bus stands after it. -/
def EngAct.after : EngAct → BusPos
  | .stop => .free
  | .rx => .byteIn
  | _ => .held

/-- Nothing is pending exactly when every request bit and `TRSTAT` are 0 (R28). -/
theorem State.pending_eq_nil_iff (s : State) : s.pending = [] ↔
    s.i2ccon.sen = false ∧ s.i2ccon.rsen = false ∧ s.i2ccon.pen = false ∧ s.i2cstat.trstat = false ∧
      s.i2ccon.rcen = false ∧ s.i2ccon.acken = false := by
  simp [State.pending]

/-- The completion step of the one operation pending takes the bus from its position before to that after. -/
theorem State.shows_complete {s : State} {a : EngAct} (hi : a ≠ .idle) (h : s.shows [a] false false a.before = true)
    (x : Answer) : (s.complete x a).shows [] (decide (a = .rx)) false a.after = true := by
  rw [State.shows_iff] at h ⊢
  obtain ⟨hdiv, hp, hrbf, hdly, htrace, howned⟩ := h
  have hnone : (s.complete x a).pending = [] := by
    rw [List.eq_nil_iff_forall_not_mem]
    intro b hb
    obtain ⟨hb, hne⟩ := (s.mem_complete_pending x a b).1 hb
    rw [hp, List.mem_singleton] at hb
    exact hne hb
  refine ⟨?_, hnone, ?_⟩
  · cases a <;> simp_all [State.complete]
  · cases a <;> simp_all [State.complete, tracePos_concat, EngAct.before, EngAct.after, BusPos.next]

/-- A coherent wait for the engine: the operation is still pending, or has been completed. -/
def State.showsWait (s : State) (a : EngAct) : Bool :=
  s.shows [a] false false a.before || s.shows [] (decide (a = .rx)) false a.after

/-- The operation whose completion a micro-step awaits in a phase. -/
def MicroStep.awaited : MicroStep → Phase → Option EngAct
  | .start, .wait => some .start
  | .restart, .wait => some .restart
  | .send _, .wait => some .tx
  | .recv _ _, .wait => some .rx
  | .recv _ _, .ackWait => some .ack
  | .stop, .wait => some .stop
  | _, _ => none

theorem MicroStep.mem_requests_of_awaited (m : MicroStep) {p : Phase} {a : EngAct} (h : m.awaited p = some a) :
    a ∈ m.requests := by
  cases m <;> cases p <;> simp_all [MicroStep.awaited, MicroStep.requests]

/-- Whether a micro-step may begin on a bus that is `held` or free. -/
def MicroStep.admits (held : Bool) : MicroStep → Bool
  | .start => !held
  | .restart => held
  | .send _ => held
  | .recv _ _ => held
  | .stop => held
  | _ => true

/-- What a micro-step has written into the registers of the bus engine at the wait for its operation. -/
def MicroStep.latched (m : MicroStep) (s : State) : Bool :=
  match m, s.seqPhase with
  | .send b, .wait => s.i2ctrn == b
  | .recv n _, .ackWait => s.i2ccon.ackdt == n
  | _, _ => true

/-- The table of `microStepCoherent`, read by phases: before the request, awaiting the engine, awaiting the delay
collaborator. -/
theorem microStepCoherent_iff {held : Bool} {m : MicroStep} {s : State} :
    microStepCoherent held m s = true ↔
      (s.seqPhase = .request ∧ m.admits held = true ∧ s.quiet (posOf held)) ∨
      (∃ a, m.awaited s.seqPhase = some a ∧ m.admits held = true ∧ m.latched s = true ∧ s.showsWait a = true) ∨
      (m = .delay s.dlyMs ∧ s.seqPhase = .wait ∧ s.shows [] false true (posOf held) = true) := by
  cases m <;> cases hp : s.seqPhase <;>
    simp [microStepCoherent, MicroStep.admits, MicroStep.awaited, MicroStep.latched, State.showsWait, hp,
      EngAct.before, EngAct.after, posOf, and_assoc, @eq_comm _ s.dlyMs] <;> cases held <;> simp

/-! ## The micro-programs -/

/-- The value a command's `DONE` writes (R150, R175 to R179, R192, R222). -/
def resultSource : Instr → ResultSrc
  | .send _ => .ackstat
  | .recv _ _ => .i2crcv
  | .rdid _ => .idr
  | .rdch _ c => .channel (channelOf c)
  | .rdlux _ => .lux
  | .init _ => .idr
  | _ => .zero

/-- The steps before `DONE`. -/
def stepsOf (c : Config) (i : Instr) : List MicroStep := (programOf c i).dropLast

theorem programOf_eq (c : Config) (i : Instr) : programOf c i = stepsOf c i ++ [.done (resultSource i)] := by
  cases i <;> rfl

/-- `DONE`. -/
def MicroStep.isDone : MicroStep → Bool
  | .done _ => true
  | _ => false

theorem stepsOf_isDone (c : Config) (i : Instr) : ∀ m ∈ stepsOf c i, m.isDone = false := by
  have h : (stepsOf c i).all (fun m => !m.isDone) = true := by cases i <;> rfl
  simpa using h

theorem stepsOf_length (c : Config) (i : Instr) : (stepsOf c i).length ≤ 23 := by
  cases i <;> exact Nat.le_of_ble_eq_true rfl

/-- After a step that is not `DONE` there is another. -/
theorem programOf_succ {c : Config} {i : Instr} {k : Nat} {m : MicroStep} (h : (programOf c i)[k]? = some m)
    (hm : m.isDone = false) : ∃ m', (programOf c i)[k + 1]? = some m' := by
  rw [programOf_eq] at h ⊢
  have hk : k < (stepsOf c i).length := by
    by_contra hge
    rw [List.getElem?_append_right (by omega), List.getElem?_singleton] at h
    split at h <;> cases h
    cases hm
  exact ⟨_, List.getElem?_eq_getElem (by simp; omega)⟩

/-- The index of a step fits `SEQ.pc`, and so does the next one. -/
theorem programOf_lt {c : Config} {i : Instr} {k : Nat} {m : MicroStep} (h : (programOf c i)[k]? = some m) :
    k < 24 := by
  have hk := (List.getElem?_eq_some_iff.1 h).1
  have hlen := stepsOf_length c i
  rw [programOf_eq, List.length_append, List.length_singleton] at hk
  omega

/-- Each step finds the bus as it needs it. -/
def wellBracketed : Bool → List MicroStep → Bool
  | _, [] => true
  | held, m :: ms => m.admits held && wellBracketed (heldAfter held [m]) ms

theorem heldAfter_concat (held : Bool) (m : MicroStep) (ms : List MicroStep) :
    heldAfter held (ms ++ [m]) = heldAfter (heldAfter held ms) [m] := by
  simp [heldAfter]

theorem admits_of_wellBracketed {held : Bool} {prog : List MicroStep} {k : Nat} {m : MicroStep}
    (hw : wellBracketed held prog = true) (h : prog[k]? = some m) : m.admits (heldAfter held (prog.take k)) = true := by
  induction prog generalizing held k with
  | nil => simp at h
  | cons m' ms ih =>
    obtain ⟨hm, hms⟩ := Bool.and_eq_true_iff.1 hw
    cases k with
    | zero =>
      obtain rfl : m' = m := by simpa using h
      exact hm
    | succ k => exact ih hms (by simpa using h)

theorem programOf_wellBracketed (c : Config) (i : Instr) : wellBracketed (startsHeld i) (programOf c i) = true := by
  cases i <;> rfl

/-- Whether the bus is held when step `k` of a command begins. -/
def heldAt (c : Config) (i : Instr) (k : Nat) : Bool := heldAfter (startsHeld i) ((programOf c i).take k)

theorem heldAt_succ {c : Config} {i : Instr} {k : Nat} {m : MicroStep} (h : (programOf c i)[k]? = some m) :
    heldAt c i (k + 1) = heldAfter (heldAt c i k) [m] := by
  rw [heldAt, List.take_add_one, h, Option.toList_some, heldAfter_concat, heldAt]

theorem admits_heldAt {c : Config} {i : Instr} {k : Nat} {m : MicroStep} (h : (programOf c i)[k]? = some m) :
    m.admits (heldAt c i k) = true :=
  admits_of_wellBracketed (programOf_wellBracketed c i) h

/-- `INIT` moves the session at steps 0, 15 and 22 (R222). -/
theorem initProgram_session {c : Config} {k : Nat} {m : MicroStep} (h : (initProgram c)[k]? = some m) :
    m.writes .session = decide (k = 0 ∨ k = 15 ∨ k = 22) := by
  have hk : k < 24 := programOf_lt (i := .init 0#8) h
  interval_cases k <;> obtain rfl := Option.some.inj h <;> rfl

/-! ## The session -/

/-- `SESSION` and `IDWARN` as a completed micro-step leaves them (R176, R222). -/
def MicroStep.sessionOf (m : MicroStep) (c : Sstat) : Session × Bool :=
  match m with
  | .sessionClear x => (x, false)
  | .sessionFromId => (sessionFromBadid c.badid, c.badid)
  | .sessionReady => (.ready, c.idwarn)
  | _ => (c.session, c.idwarn)

/-- The session step of a micro-program other than `INIT`'s keeps the session settled. -/
def MicroStep.settles : MicroStep → Bool
  | .sessionClear x => x.settled
  | .sessionFromId => false
  | _ => true

theorem programOf_settles (c : Config) {i : Instr} (hi : ∀ x, i ≠ .init x) : ∀ m ∈ programOf c i, m.settles = true := by
  have h : (programOf c i).all MicroStep.settles = true := by
    cases i with
    | init x => exact absurd rfl (hi x)
    | _ => rfl
  simpa using h

theorem MicroStep.sessionOf_settled {m : MicroStep} (hm : m.settles = true) {c : Sstat}
    (hc : c.session.settled = true) : (m.sessionOf c).1.settled = true := by
  cases m <;> simp_all [MicroStep.sessionOf, MicroStep.settles, Session.settled]

theorem sessionCoherent_of_ne_init {i : Instr} (hi : ∀ x, i ≠ .init x) (pc : Nat) (c : Sstat) :
    sessionCoherent i pc c = c.session.settled := by
  cases i with
  | init x => exact absurd rfl (hi x)
  | _ => rfl

/-- What is asked of the session depends on `SESSION`, `IDWARN` and `BADID` alone. -/
theorem sessionCoherent_congr {c c' : Sstat} (hs : c'.session = c.session) (hw : c'.idwarn = c.idwarn)
    (hb : c'.badid = c.badid) (i : Instr) (pc : Nat) : sessionCoherent i pc c' = sessionCoherent i pc c := by
  cases i <;> simp only [sessionCoherent, hs, hw, hb]

/-- A completed micro-step leaves the session as the next one needs it. -/
theorem sessionCoherent_succ {i : Instr} {pc : Nat} {c c' : Sstat} {cfg : Config} {m : MicroStep}
    (h : sessionCoherent i pc c = true) (hm : (programOf cfg i)[pc]? = some m) (hd : m.isDone = false)
    (hs : (c'.session, c'.idwarn) = m.sessionOf c) (hb : m.writes .badid = false → c'.badid = c.badid) :
    sessionCoherent i (pc + 1) c' = true := by
  by_cases hi : ∀ x, i ≠ .init x
  · rw [sessionCoherent_of_ne_init hi] at h ⊢
    have := MicroStep.sessionOf_settled (programOf_settles cfg hi m (List.mem_of_getElem? hm)) h
    rwa [← hs] at this
  · push Not at hi
    obtain ⟨x, rfl⟩ := hi
    have hk : pc < 24 := programOf_lt hm
    interval_cases pc <;> obtain rfl := Option.some.inj hm <;>
      simp_all [sessionCoherent, MicroStep.sessionOf, MicroStep.writes, MicroStep.isDone]

/-- When `DONE` is reached the session is settled. -/
theorem sessionCoherent_done {i : Instr} {pc : Nat} {c : Sstat} {cfg : Config} {v : ResultSrc}
    (h : sessionCoherent i pc c = true) (hm : (programOf cfg i)[pc]? = some (.done v)) : c.session.settled = true := by
  by_cases hi : ∀ x, i ≠ .init x
  · rwa [sessionCoherent_of_ne_init hi] at h
  · push Not at hi
    obtain ⟨x, rfl⟩ := hi
    have hk : pc < 24 := programOf_lt hm
    interval_cases pc <;> cases Option.some.inj hm
    simpa [sessionCoherent, Session.settled] using Or.inr (eq_of_beq h)

/-! ## A sequencer turn -/

/-- While the operation awaited is not pending it has been completed. -/
theorem State.shows_after {s : State} {a : EngAct} (h : s.showsWait a = true) (hn : a ∉ s.pending) :
    s.shows [] (decide (a = .rx)) false a.after = true := by
  obtain h | h := Bool.or_eq_true_iff.1 h
  · obtain ⟨-, hp, -⟩ := State.shows_iff.1 h
    simp [hp] at hn
  · exact h

/-- What a completed micro-step leaves: the next one has made no request, and the bus and the session are as it needs
them. -/
structure Advances (held : Bool) (m : MicroStep) (s t : State) : Prop where
  notDone : m.isDone = false
  pc : t.seqPc = s.seqPc + 1#5
  phase : t.seqPhase = .request
  busy : t.sstat.busy = s.sstat.busy
  quiet : t.quiet (posOf (heldAfter held [m]))
  session : (t.sstat.session, t.sstat.idwarn) = m.sessionOf s.sstat
  badid : m.writes .badid = false → t.sstat.badid = s.sstat.badid

/-- What a micro-step that makes a request, or polls, leaves. -/
structure Stays (held : Bool) (m : MicroStep) (s t : State) : Prop where
  pc : t.seqPc = s.seqPc
  sstat : t.sstat = s.sstat
  shown : microStepCoherent held m t = true

theorem Stays.refl {held : Bool} {m : MicroStep} {s : State} (h : microStepCoherent held m s = true) :
    Stays held m s s := ⟨rfl, rfl, h⟩

theorem Stays.of_awaited {held : Bool} {m : MicroStep} {s t : State} {a : EngAct} (hpc : t.seqPc = s.seqPc)
    (hsstat : t.sstat = s.sstat) (ha : m.awaited t.seqPhase = some a) (hm : m.admits held = true)
    (hl : m.latched t = true) (hw : t.shows [a] false false a.before = true) : Stays held m s t :=
  ⟨hpc, hsstat, microStepCoherent_iff.2 (.inr (.inl ⟨a, ha, hm, hl, by simp [State.showsWait, hw]⟩))⟩

/-! One lemma per request: a quiet state that makes it shows it pending, the bus as before (R132 to R137, R279). -/

theorem State.shows_requestStart {s : State} (h : s.quiet .free) :
    s.requestStart.shows [.start] false false .free = true := by
  obtain ⟨hd, hp, hrest⟩ := State.shows_iff.1 h
  exact State.shows_iff.2 ⟨hd, by simp_all [State.pending], hrest⟩

theorem State.shows_requestRestart {s : State} (h : s.quiet .held) :
    s.requestRestart.shows [.restart] false false .held = true := by
  obtain ⟨hd, hp, hrest⟩ := State.shows_iff.1 h
  exact State.shows_iff.2 ⟨hd, by simp_all [State.pending], hrest⟩

theorem State.shows_requestStop {s : State} (h : s.quiet .held) :
    s.requestStop.shows [.stop] false false .held = true := by
  obtain ⟨hd, hp, hrest⟩ := State.shows_iff.1 h
  exact State.shows_iff.2 ⟨hd, by simp_all [State.pending], hrest⟩

theorem State.shows_requestSend {s : State} (h : s.quiet .held) (b : Byte) :
    (s.requestSend b).shows [.tx] false false .held = true := by
  obtain ⟨hd, hp, hrest⟩ := State.shows_iff.1 h
  exact State.shows_iff.2 ⟨hd, by simp_all [State.pending], hrest⟩

theorem State.shows_requestReceive {s : State} (h : s.quiet .held) :
    s.requestReceive.shows [.rx] false false .held = true := by
  obtain ⟨hd, hp, hrest⟩ := State.shows_iff.1 h
  exact State.shows_iff.2 ⟨hd, by simp_all [State.pending], hrest⟩

theorem State.shows_requestAck {s : State} (h : s.shows [] true false .byteIn = true) (n : Bit) :
    (s.requestAck n).shows [.ack] false false .byteIn = true := by
  obtain ⟨hd, hp, -, hrest⟩ := State.shows_iff.1 h
  exact State.shows_iff.2 ⟨hd, by simp_all [State.pending], rfl, hrest⟩

theorem State.shows_requestDelay {s : State} {pos : BusPos} (h : s.quiet pos) (ms : BitVec 10) :
    (s.requestDelay ms).shows [] false true pos = true := by
  obtain ⟨hd, hp, hrbf, -, hrest⟩ := State.shows_iff.1 h
  exact State.shows_iff.2 ⟨hd, hp, hrbf, rfl, hrest⟩

/-- Before its request a coherent micro-step stands on a quiet bus that admits it. -/
theorem quiet_of_request {held : Bool} {m : MicroStep} {s : State} (h : microStepCoherent held m s = true)
    (hp : s.seqPhase = .request) : m.admits held = true ∧ s.quiet (posOf held) := by
  obtain ⟨-, hm, hq⟩ | ⟨a, ha, -⟩ | ⟨-, hp', -⟩ := microStepCoherent_iff.1 h
  · exact ⟨hm, hq⟩
  · cases m <;> simp [hp, MicroStep.awaited] at ha
  · simp [hp] at hp'

/-- After its request a coherent micro-step awaits an operation of the engine, or it is a delay. -/
theorem awaits_of_not_request {held : Bool} {m : MicroStep} {s : State} (h : microStepCoherent held m s = true)
    (hp : s.seqPhase ≠ .request) :
    (∃ a, m.awaited s.seqPhase = some a ∧ m.admits held = true ∧ s.showsWait a = true) ∨
      (∃ ms, m = .delay ms ∧ s.shows [] false true (posOf held) = true) := by
  obtain ⟨hp', -⟩ | ⟨a, ha, hm, -, hw⟩ | ⟨hd, -, hs⟩ := microStepCoherent_iff.1 h
  · exact absurd hp' hp
  · exact .inl ⟨a, ha, hm, hw⟩
  · exact .inr ⟨_, hd, hs⟩

/-- The micro-steps that await nothing. -/
def MicroStep.unwaited : MicroStep → Bool
  | .delay _ => false
  | m => m.requests.isEmpty

/-- They are coherent before their one turn only. -/
theorem quiet_of_unwaited {held : Bool} {m : MicroStep} {s : State} (h : microStepCoherent held m s = true)
    (hm : m.unwaited = true) : s.seqPhase = .request ∧ s.quiet (posOf held) := by
  by_cases hp : s.seqPhase = .request
  · exact ⟨hp, (quiet_of_request h hp).2⟩
  · obtain ⟨a, ha, -⟩ | ⟨_, rfl, -⟩ := awaits_of_not_request h hp
    · have := m.mem_requests_of_awaited ha
      cases m <;> simp_all [MicroStep.unwaited, MicroStep.requests]
    · cases hm

/-- A micro-step that only changes result registers, flags or the session, then advances. -/
theorem Advances.of_advance {held : Bool} {m : MicroStep} {s u : State} (hd : m.isDone = false)
    (hpc : u.seqPc = s.seqPc) (hb : u.sstat.busy = s.sstat.busy) (hq : u.quiet (posOf (heldAfter held [m])))
    (hs : (u.sstat.session, u.sstat.idwarn) = m.sessionOf s.sstat)
    (hbad : m.writes .badid = false → u.sstat.badid = s.sstat.badid) : Advances held m s u.advance :=
  ⟨hd, congrArg (· + 1#5) hpc, rfl, hb, hq, hs, hbad⟩

/-- The end of an await of the engine. -/
theorem Advances.of_completed {held : Bool} {m : MicroStep} {s u : State} {a : EngAct} {p : Phase}
    (ha : m.awaited p = some a) (hr : a ≠ .rx) (hm : m.admits held = true) (hw : s.showsWait a = true)
    (hn : a ∉ s.pending) (hpc : u.seqPc = s.seqPc) (hb : u.sstat.busy = s.sstat.busy)
    (hq : ∀ pos, s.quiet pos → u.quiet pos)
    (hs : (u.sstat.session, u.sstat.idwarn, u.sstat.badid) = (s.sstat.session, s.sstat.idwarn, s.sstat.badid)) :
    Advances held m s u.advance := by
  have hafter : s.quiet a.after := by simpa [hr] using State.shows_after hw hn
  have hpos : a.after = posOf (heldAfter held [m]) := by
    cases m <;> cases p <;> simp_all [MicroStep.awaited] <;> subst ha <;>
      simp_all [MicroStep.admits, EngAct.after, posOf, heldAfter]
  simp only [Prod.mk.injEq] at hs
  obtain ⟨hs, hw, hbad⟩ := hs
  refine .of_advance ?_ hpc hb (hpos ▸ hq _ hafter) ?_ fun _ => hbad
  · cases m <;> simp_all [MicroStep.awaited, MicroStep.isDone]
  · cases m <;> simp_all [MicroStep.awaited, MicroStep.sessionOf]

/-- The end of the await of a micro-step that asks for one operation. -/
theorem Advances.of_await {held : Bool} {m : MicroStep} {s u : State} {a : EngAct}
    (h : microStepCoherent held m s = true) (hp : s.seqPhase ≠ .request) (hr : m.requests = [a]) (hn : a ∉ s.pending)
    (hpc : u.seqPc = s.seqPc) (hb : u.sstat.busy = s.sstat.busy) (hq : ∀ pos, s.quiet pos → u.quiet pos)
    (hs : (u.sstat.session, u.sstat.idwarn, u.sstat.badid) = (s.sstat.session, s.sstat.idwarn, s.sstat.badid)) :
    Advances held m s u.advance := by
  obtain ⟨b, hb', hm, hw⟩ | ⟨_, rfl, -⟩ := awaits_of_not_request h hp
  · obtain rfl : b = a := by simpa [hr] using m.mem_requests_of_awaited hb'
    refine .of_completed hb' ?_ hm hw hn hpc hb hq hs
    cases m <;> simp [MicroStep.requests] at hr <;> subst hr <;> simp
  · cases hr

/-- Every sequencer turn of a coherent micro-step keeps it coherent, or completes it. -/
theorem microTurn_coherent {held : Bool} {m : MicroStep} {s : State} (h : microStepCoherent held m s = true) :
    Stays held m s (microTurn m s) ∨ Advances held m s (microTurn m s) ∨
      (m.isDone = true ∧ s.quiet (posOf held)) := by
  cases m with
  | start =>
    rw [microTurn]
    obtain ⟨hp, e⟩ | ⟨-, -, e⟩ | ⟨hp, hn, e⟩ := startPrimitive_cases s <;> rw [e]
    · obtain ⟨hm, hq⟩ := quiet_of_request h hp
      obtain rfl : held = false := by simpa [MicroStep.admits] using hm
      exact .inl (.of_awaited rfl rfl rfl rfl rfl (State.shows_requestStart hq))
    · exact .inl (.refl h)
    · exact .inr (.inl (.of_await h hp rfl (by simp [s.mem_pending_iff, hn]) rfl rfl (fun _ h => h) rfl))
  | restart =>
    rw [microTurn]
    obtain ⟨hp, e⟩ | ⟨-, -, e⟩ | ⟨hp, hn, e⟩ := restartPrimitive_cases s <;> rw [e]
    · obtain ⟨hm, hq⟩ := quiet_of_request h hp
      obtain rfl : held = true := hm
      exact .inl (.of_awaited rfl rfl rfl rfl rfl (State.shows_requestRestart hq))
    · exact .inl (.refl h)
    · exact .inr (.inl (.of_await h hp rfl (by simp [s.mem_pending_iff, hn]) rfl rfl (fun _ h => h) rfl))
  | stop =>
    rw [microTurn]
    obtain ⟨hp, e⟩ | ⟨-, -, e⟩ | ⟨hp, hn, e⟩ := stopPrimitive_cases s <;> rw [e]
    · obtain ⟨hm, hq⟩ := quiet_of_request h hp
      obtain rfl : held = true := hm
      exact .inl (.of_awaited rfl rfl rfl rfl rfl (State.shows_requestStop hq))
    · exact .inl (.refl h)
    · exact .inr (.inl (.of_await h hp rfl (by simp [s.mem_pending_iff, hn]) rfl rfl (fun _ h => h) rfl))
  | send b =>
    rw [microTurn]
    obtain ⟨hp, e⟩ | ⟨-, -, e⟩ | ⟨hp, hn, -, e⟩ | ⟨hp, hn, -, e⟩ := sendPrimitive_cases b s <;> rw [e]
    · obtain ⟨hm, hq⟩ := quiet_of_request h hp
      obtain rfl : held = true := hm
      exact .inl (.of_awaited rfl rfl rfl rfl (by simp [MicroStep.latched]) (State.shows_requestSend hq b))
    · exact .inl (.refl h)
    all_goals
      exact .inr (.inl (.of_await h hp rfl (by simp [s.mem_pending_iff, hn]) rfl rfl (fun _ h => h) rfl))
  | recv n d =>
    rw [microTurn]
    obtain ⟨hp, e⟩ | ⟨-, -, e⟩ | ⟨hp, hn, e⟩ | ⟨-, -, e⟩ | ⟨hp, hn, e⟩ := recvPrimitive_cases n d s <;> rw [e]
    · obtain ⟨hm, hq⟩ := quiet_of_request h hp
      obtain rfl : held = true := hm
      exact .inl (.of_awaited rfl rfl rfl rfl rfl (State.shows_requestReceive hq))
    · exact .inl (.refl h)
    · obtain ⟨a, ha, hm, hw⟩ | ⟨_, hd, -⟩ := awaits_of_not_request h (by simp [hp])
      · obtain rfl : EngAct.rx = a := by simpa [hp, MicroStep.awaited] using ha
        have hbyte : s.shows [] true false .byteIn = true := by
          obtain hrx | hin := Bool.or_eq_true_iff.1 hw
          · obtain ⟨-, -, hrbf, -⟩ := State.shows_iff.1 hrx
            simp [hn] at hrbf
          · exact hin
        exact .inl (.of_awaited rfl rfl rfl hm (by simp [MicroStep.latched]) (State.shows_requestAck hbyte n))
      · cases hd
    · exact .inl (.refl h)
    · obtain ⟨a, ha, hm, hw⟩ | ⟨_, hd, -⟩ := awaits_of_not_request h (by simp [hp])
      · obtain rfl : EngAct.ack = a := by simpa [hp, MicroStep.awaited] using ha
        cases d <;>
          exact .inr (.inl (.of_completed ha (by decide) hm hw (by simp [s.mem_pending_iff, hn]) rfl rfl
            (fun _ h => h) rfl))
      · cases hd
  | delay ms =>
    rw [microTurn]
    obtain ⟨hp, e⟩ | ⟨-, -, e⟩ | ⟨hp, -, e⟩ := delayPrimitive_cases ms s <;> rw [e]
    · obtain ⟨-, hq⟩ := quiet_of_request h hp
      exact .inl ⟨rfl, rfl, microStepCoherent_iff.2 (.inr (.inr ⟨rfl, rfl, State.shows_requestDelay hq ms⟩))⟩
    · exact .inl (.refl h)
    · obtain ⟨a, ha, -⟩ | ⟨_, -, hs⟩ := awaits_of_not_request h hp
      · cases ha
      · obtain ⟨hd, hp, hrbf, -, hrest⟩ := State.shows_iff.1 hs
        have hq : s.endDelay.quiet (posOf held) := State.shows_iff.2 ⟨hd, hp, hrbf, rfl, hrest⟩
        exact .inr (.inl (.of_advance rfl rfl rfl hq rfl fun _ => rfl))
  | latch c =>
    obtain ⟨-, hq⟩ := quiet_of_unwaited h rfl
    cases c <;> exact .inr (.inl (.of_advance rfl rfl rfl hq rfl fun _ => rfl))
  | checkId =>
    obtain ⟨-, hq⟩ := quiet_of_unwaited h rfl
    rw [microTurn, State.checkId]
    split <;> exact .inr (.inl (.of_advance rfl rfl rfl hq rfl (by simp [MicroStep.writes])))
  | conv =>
    obtain ⟨-, hq⟩ := quiet_of_unwaited h rfl
    rw [microTurn, State.conv]
    split <;> exact .inr (.inl (.of_advance rfl rfl rfl hq rfl fun _ => rfl))
  | sessionClear | sessionFromId | sessionReady =>
    obtain ⟨-, hq⟩ := quiet_of_unwaited h rfl
    exact .inr (.inl (.of_advance rfl rfl rfl hq rfl fun _ => rfl))
  | done v =>
    obtain ⟨-, hq⟩ := quiet_of_unwaited h rfl
    exact .inr (.inr ⟨rfl, hq⟩)

/-! ## Coherent states -/

/-- With a command running: `i` is in progress, at its step `m`. -/
structure State.Running (s : State) (i : Instr) (m : MicroStep) : Prop where
  busy : s.sstat.busy = true
  decoded : decodeFields s.seqOp s.seqArg = .ok i
  on : s.i2ccon.on = true
  session : sessionCoherent i s.seqPc.toNat s.sstat = true
  step : (programOf s.cfg i)[s.seqPc.toNat]? = some m
  shown : microStepCoherent (heldAt s.cfg i s.seqPc.toNat) m s = true

/-- With none. -/
structure State.Idle (s : State) : Prop where
  busy : s.sstat.busy = false
  pc : s.seqPc = 0#5
  phase : s.seqPhase = .request
  session : s.sstat.session.settled = true
  quiet : s.quiet (posOf s.sstat.owned)

theorem State.coherent_iff {s : State} : s.coherent = true ↔ s.Idle ∨ ∃ i m, s.Running i m := by
  unfold State.coherent
  constructor
  · intro h
    split at h
    · rename_i hb
      split at h
      · rename_i i hi
        simp only [Bool.and_eq_true] at h
        obtain ⟨⟨hon, hsession⟩, hstep⟩ := h
        split at hstep
        · rename_i m hm
          exact .inr ⟨i, m, hb, hi, hon, hsession, hm, hstep⟩
        · cases hstep
      · cases h
    · rename_i hb
      simp only [Bool.and_eq_true, beq_iff_eq] at h
      obtain ⟨⟨⟨hpc, hphase⟩, hsession⟩, hquiet⟩ := h
      exact .inl ⟨by simpa using hb, hpc, hphase, hsession, hquiet⟩
  · rintro (⟨hb, hpc, hphase, hsession, hquiet⟩ | ⟨i, m, hb, hi, hon, hsession, hm, hshown⟩)
    · simp [hb, hpc, hphase, hsession, hquiet]
    · rw [heldAt] at hshown
      simp [hb, hi, hon, hsession, hm, hshown]

theorem State.Running.program {s : State} {i : Instr} {m : MicroStep} (h : s.Running i m) :
    s.program = programOf s.cfg i := by
  rw [State.program, h.decoded]

/-- The same step goes on while the command, the configuration and the session stay and the step stays coherent. -/
theorem State.Running.of_same {s t : State} {i : Instr} {m : MicroStep} (h : s.Running i m)
    (hfixed : Part.fixed.Same s t) (hcommand : Part.command.Same s t) (hsession : Part.session.Same s t)
    (hbadid : Part.badid.Same s t) (hbusy : t.sstat.busy = s.sstat.busy) (hpc : t.seqPc = s.seqPc)
    (hshown : microStepCoherent (heldAt s.cfg i s.seqPc.toNat) m t = true) : t.Running i m := by
  obtain ⟨hcfg, -, hon, -⟩ := hfixed
  obtain ⟨-, hop, harg, -⟩ := hcommand
  exact ⟨hbusy ▸ h.busy, hop ▸ harg ▸ h.decoded, hon ▸ h.on,
    by rw [sessionCoherent_congr hsession.1 hsession.2 hbadid, hpc]; exact h.session, hcfg ▸ hpc ▸ h.step,
    hcfg ▸ hpc ▸ hshown⟩

/-! ## An engine turn -/

/-- Nothing pending, nothing done. -/
theorem engineTurn_of_pending_nil {s : State} (h : s.pending = []) (x : Answer) : engineTurn x s = s := by
  unfold engineTurn State.engAct
  rw [h]
  split <;> rfl

theorem engineTurn_of_pending {s : State} {a : EngAct} (h : s.pending = [a]) (hon : s.i2ccon.on = true) (x : Answer) :
    engineTurn x s = s.complete x a := by
  simp [engineTurn, State.engAct, h, hon]

/-- The completion of what a micro-step awaits. -/
theorem microStepCoherent_complete {held : Bool} {m : MicroStep} {s : State} {a : EngAct}
    (ha : m.awaited s.seqPhase = some a) (hm : m.admits held = true) (hl : m.latched s = true)
    (hs : s.shows [a] false false a.before = true) (x : Answer) :
    microStepCoherent held m (s.complete x a) = true := by
  have hi : a ≠ .idle := by
    rintro rfl
    have := m.mem_requests_of_awaited ha
    cases m <;> simp [MicroStep.requests] at this
  refine microStepCoherent_iff.2 (.inr (.inl ⟨a, ?_, hm, ?_, ?_⟩))
  · cases a <;> exact ha
  · cases a <;> exact hl
  · simp [State.showsWait, State.shows_complete hi hs x]

/-- An engine turn keeps the micro-step in progress coherent: nothing is pending, or what is awaited is completed. -/
theorem State.Running.engineTurn {s : State} {i : Instr} {m : MicroStep} (h : s.Running i m) (x : Answer) :
    (engineTurn x s).Running i m := by
  obtain ⟨-, -, hq⟩ | ⟨a, ha, hm, hl, hw⟩ | ⟨-, -, hs⟩ := microStepCoherent_iff.1 h.shown
  · rwa [engineTurn_of_pending_nil (State.pending_of_shows hq)]
  · obtain hs | hs := Bool.or_eq_true_iff.1 hw
    · rw [engineTurn_of_pending (State.pending_of_shows hs) h.on]
      refine h.of_same (s.complete_same ?_ x) (s.complete_same ?_ x) (s.complete_same ?_ x) (s.complete_same ?_ x) ?_ ?_
        (microStepCoherent_complete ha hm hl hs x)
      all_goals cases a <;> rfl
    · rwa [engineTurn_of_pending_nil (State.pending_of_shows hs)]
  · rwa [engineTurn_of_pending_nil (State.pending_of_shows hs)]

/-! ## Every step -/

/-- The next step of the command. -/
theorem State.Running.succ {s t : State} {i : Instr} {m : MicroStep} (h : s.Running i m)
    (hfixed : Part.fixed.Same s t) (hcommand : Part.command.Same s t)
    (hadv : Advances (heldAt s.cfg i s.seqPc.toNat) m s t) : ∃ m', t.Running i m' := by
  obtain ⟨hcfg, -, hon, -⟩ := hfixed
  obtain ⟨-, hop, harg, -⟩ := hcommand
  obtain ⟨m', hm'⟩ := programOf_succ h.step hadv.notDone
  have hpc : t.seqPc.toNat = s.seqPc.toNat + 1 := by
    have hlt := programOf_lt h.step
    rw [hadv.pc, BitVec.toNat_add]
    simp
    omega
  refine ⟨m', hadv.busy ▸ h.busy, hop ▸ harg ▸ h.decoded, hon ▸ h.on, ?_, hcfg ▸ hpc ▸ hm', ?_⟩
  · rw [hpc]
    exact sessionCoherent_succ h.session h.step hadv.notDone hadv.session hadv.badid
  · rw [hpc, hcfg]
    refine microStepCoherent_iff.2 (.inl ⟨hadv.phase, admits_heldAt hm', ?_⟩)
    rw [heldAt_succ h.step]
    exact hadv.quiet

/-- Between commands the sequencer has no step. -/
theorem sequencerTurn_of_not_busy {s : State} (h : s.sstat.busy = false) (prog : List MicroStep) :
    sequencerTurn prog s = s := by
  simp [sequencerTurn, h]

/-- A running command's sequencer turn is its micro-step's. -/
theorem sequencerTurn_of_busy {prog : List MicroStep} {s : State} {m : MicroStep} (h : s.sstat.busy = true)
    (hm : prog[s.seqPc.toNat]? = some m) : sequencerTurn prog s = microTurn m s := by
  simp [sequencerTurn, h, hm]

/-- A static part is kept by a sequencer turn. -/
theorem microTurn_same_of_isStatic {f : Part} (hf : f.isStatic = true) (m : MicroStep) (s : State) :
    f.Same s (microTurn m s) :=
  microTurn_same (m.writes_of_isStatic hf) s

/-- A running command's sequencer turn polls or requests, or completes the step, or ends the command. -/
theorem State.Running.microTurn_coherent {s : State} {i : Instr} {m : MicroStep} (h : s.Running i m) :
    (microTurn m s).coherent = true := by
  obtain hstay | hadv | ⟨hd, hq⟩ := Machine.microTurn_coherent h.shown
  · have hsession : Part.session.Same s (microTurn m s) :=
      ⟨congrArg Sstat.session hstay.sstat, congrArg Sstat.idwarn hstay.sstat⟩
    exact State.coherent_iff.2 (.inr ⟨i, m, h.of_same (microTurn_same_of_isStatic rfl m s)
      (microTurn_same_of_isStatic rfl m s) hsession (congrArg Sstat.badid hstay.sstat)
      (congrArg Sstat.busy hstay.sstat) hstay.pc hstay.shown⟩)
  · obtain ⟨m', h'⟩ := h.succ (microTurn_same_of_isStatic rfl m s) (microTurn_same_of_isStatic rfl m s) hadv
    exact State.coherent_iff.2 (.inr ⟨i, m', h'⟩)
  · cases m with
    | done v =>
      have howned : s.sstat.owned = heldAt s.cfg i s.seqPc.toNat := by
        obtain ⟨-, -, -, -, -, hpos⟩ := State.shows_iff.1 hq
        cases ho : s.sstat.owned <;> cases hh : heldAt s.cfg i s.seqPc.toNat <;> simp_all [posOf]
      refine State.coherent_iff.2 (.inl ⟨rfl, rfl, rfl, sessionCoherent_done h.session h.step, ?_⟩)
      rw [← howned] at hq
      exact hq
    | _ => cases hd

/-- Every turn of the block and its environment keeps a state coherent. -/
theorem blockTurn_coherent {s : State} (h : s.coherent = true) (t : Turn) :
    (blockTurn s.program t s).coherent = true := by
  cases t with
  | host p => exact h
  | reset => exact h
  | delayPin level => exact h
  | sequencer =>
    obtain hidle | ⟨i, m, hrun⟩ := State.coherent_iff.1 h
    · rwa [blockTurn, sequencerTurn_of_not_busy hidle.busy]
    · rw [blockTurn, sequencerTurn_of_busy hrun.busy (hrun.program ▸ hrun.step)]
      exact hrun.microTurn_coherent
  | engine x =>
    obtain hidle | ⟨i, m, hrun⟩ := State.coherent_iff.1 h
    · rwa [blockTurn, engineTurn_of_pending_nil (State.pending_of_shows hidle.quiet)]
    · exact State.coherent_iff.2 (.inr ⟨i, m, hrun.engineTurn x⟩)

/-- So does a whole run of the command in progress. -/
theorem runTurns_coherent {s : State} (h : s.coherent = true) (ts : List Turn) :
    (runTurns s.program ts s).coherent = true := by
  refine (runTurns_keeps (P := fun u => u.coherent = true ∧ u.program = s.program) ?_ ts s ⟨h, rfl⟩).1
  intro t u us _ ⟨hu, hp⟩
  rw [← hp]
  exact ⟨blockTurn_coherent (s := u.nextTurn us) hu t, by simp⟩

/-- An accepted command starts coherent (R41, R119). -/
theorem State.Idle.accept {s : State} (h : s.Idle) (hon : s.i2ccon.on = true) {i : Instr} (hv : violates i s = false) :
    ((s.examine (encode i)).accept i.opcode i.operand).coherent = true := by
  obtain ⟨m, hm⟩ : ∃ m, (programOf s.cfg i)[0]? = some m := by cases i <;> exact ⟨_, rfl⟩
  have howned : s.sstat.owned = heldAt s.cfg i 0 := by
    have h0 : heldAt s.cfg i 0 = startsHeld i := rfl
    rw [h0]
    cases hs : startsHeld i <;> simpa [violates, hs] using hv
  refine State.coherent_iff.2 (.inr ⟨i, m, rfl, decodeFields_of_instr i, hon, ?_, hm, ?_⟩)
  · have hsettled := h.session
    cases i <;> exact hsettled
  · refine microStepCoherent_iff.2 (.inl ⟨rfl, admits_heldAt hm, ?_⟩)
    have hq := h.quiet
    rw [howned] at hq
    exact hq

/-- A coherent state with `BUSY = 0` is idle. -/
theorem State.idle_of_coherent {s : State} (h : s.coherent = true) (hb : s.sstat.busy = false) : s.Idle := by
  obtain hidle | ⟨i, m, hrun⟩ := State.coherent_iff.1 h
  · exact hidle
  · simp [hrun.busy] at hb

/-- A refusal writes flags, `CMD` and `RESULT` only (R116). -/
theorem State.Idle.refuse {s : State} (h : s.Idle) (w : Word) (c : Errc) : ((s.examine w).refuse c).coherent = true :=
  State.coherent_iff.2 (.inl ⟨h.busy, h.pc, h.phase, h.session, h.quiet⟩)

/-- A lost, refused or accepted command leaves a coherent state coherent. -/
theorem exec_coherent {i : Instr} {s t : State} (hs : s.coherent = true) (h : exec i s = .next t) :
    t.coherent = true := by
  rw [exec_eq_issue] at h
  obtain ⟨-, e⟩ | ⟨hb, -, e⟩ | ⟨hb, -, -, e⟩ | ⟨hb, hon, hv, e⟩ :=
    issue_cases i (violates i s) (programOf s.cfg i) s
  all_goals
    cases e.symm.trans h
  · exact hs
  · exact (State.idle_of_coherent hs hb).refuse _ _
  · exact (State.idle_of_coherent hs hb).refuse _ _
  · have hrun := runTurns_coherent ((State.idle_of_coherent hs hb).accept hon hv) s.schedule
    rwa [program_of_accept] at hrun

/-- So does any word written to `CMD`. -/
theorem issueWord_coherent {w : Word} {s t : State} (hs : s.coherent = true) (h : issueWord w s = .next t) :
    t.coherent = true := by
  obtain ⟨i, -, -, e⟩ | ⟨-, e⟩ := issueWord_cases w s
  · exact exec_coherent hs (e.symm.trans h)
  · cases e.symm.trans h
    rw [issueIllegal]
    split
    · exact hs
    · rename_i hb
      exact (State.idle_of_coherent hs (by simpa using hb)).refuse _ _

/-- The read side of a host access writes no register. -/
theorem hostRead_coherent {s : State} (h : s.coherent = true) (p : HostPort) : (s.hostRead p).coherent = true := by
  obtain ⟨-, e⟩ | ⟨-, -, e⟩ | ⟨-, -, e⟩ := s.hostRead_cases p <;> rw [e] <;> exact h

/-- The host configures the engine only between commands, when `ON` may have any value. -/
theorem hostWrite_coherent {s : State} (h : s.coherent = true) (r : BitVec 4) (v : Word) :
    (s.hostWrite r v).coherent = true := by
  obtain ⟨hb, -, -, e⟩ | ⟨-, -, -, e⟩ | ⟨-, e⟩ := s.hostWrite_cases r v <;> rw [e]
  · have hidle := State.idle_of_coherent h hb
    exact State.coherent_iff.2 (.inl ⟨hidle.busy, hidle.pc, hidle.phase, hidle.session, hidle.quiet⟩)
  · exact h
  · exact h

/-- Settles O45: with nothing requested, no event and the session `Uninitialized` the reset state is idle. -/
theorem resetIsCoherent : Obligations.ResetIsCoherent :=
  State.coherent_iff.2 (.inl ⟨rfl, rfl, rfl, rfl, rfl⟩)

/-- Settles O46: a host access, a command with all its turns, reset and every single turn keep a state coherent. -/
theorem stepKeepsCoherence : Obligations.StepKeepsCoherence := by
  intro s t hs h
  have hnext : ∀ rest, (s.nextTurn rest).coherent = true := fun _ => hs
  obtain ⟨-, e⟩ | ⟨p, rest, -, -, -, e⟩ | ⟨p, rest, -, -, -, e⟩ | ⟨p, rest, -, -, e⟩ | ⟨rest, -, e⟩ |
    ⟨u, rest, -, -, e⟩ := step_cases s
  case inr.inl => exact issueWord_coherent (hostRead_coherent (hnext rest) p) (e.symm.trans h)
  all_goals
    cases e.symm.trans h
  · exact hs
  · exact hostWrite_coherent (hostRead_coherent (hnext rest) p) _ _
  · exact hostRead_coherent (hnext rest) p
  · exact resetIsCoherent
  · exact blockTurn_coherent (hnext rest) u

end Sys2Proof.Machine
end

section
/-! What coherence says of requests (R28, R138) and of the session (R225), and how a micro-program ends (R44). -/

namespace Sys2Proof.Machine

/-- A running command's micro-step has at most its one request pending. -/
theorem pending_of_microStepCoherent {held : Bool} {m : MicroStep} {s : State} (h : microStepCoherent held m s = true) :
    s.pending = [] ∨ ∃ a, s.pending = [a] := by
  obtain ⟨-, -, hq⟩ | ⟨a, -, -, -, hw⟩ | ⟨-, -, hs⟩ := microStepCoherent_iff.1 h
  · exact .inl (State.pending_of_shows hq)
  · obtain hs | hs := Bool.or_eq_true_iff.1 hw
    · exact .inr ⟨a, (State.pending_of_shows hs)⟩
    · exact .inl (State.pending_of_shows hs)
  · exact .inl (State.pending_of_shows hs)

/-- Settles O47: an idle state has no request pending, a running command at most the one of its micro-step. -/
theorem atMostOneRequest : Obligations.AtMostOneRequest := by
  intro s h
  have hone : s.pending = [] ∨ ∃ a, s.pending = [a] := by
    obtain hidle | ⟨i, m, hrun⟩ := State.coherent_iff.1 h
    · exact .inl (State.pending_of_shows hidle.quiet)
    · exact pending_of_microStepCoherent hrun.shown
  refine ⟨?_, ?_, fun hp => ?_⟩
  · obtain hp | ⟨a, hp⟩ := hone <;> simp [hp]
  · obtain hp | ⟨a, hp⟩ := hone <;> simp [State.engAct, hp]
  · obtain hidle | ⟨i, m, hrun⟩ := State.coherent_iff.1 h
    · exact absurd (State.pending_of_shows hidle.quiet) hp
    · exact ⟨hrun.busy, hrun.on⟩

/-! ## The session -/

/-- `Uninitialized` or `Ready`. -/
theorem Session.settled_iff (x : Session) : x.settled = true ↔ x = .uninitialized ∨ x = .ready := by
  simp [Session.settled]

/-- The micro-steps that move the session are three of `INIT` and one of `PWROFF` (R176, R222). -/
theorem programOf_session {c : Config} {i : Instr} {k : Nat} {m : MicroStep} (h : (programOf c i)[k]? = some m)
    (hm : m.writes .session = true) :
    (i.opcode = 0x16#8 ∧ (k = 0 ∨ k = 15 ∨ k = 22)) ∨ (i.opcode = 0x11#8 ∧ k = 5) := by
  have hmem := List.mem_of_getElem? h
  have never : leaves (programOf c i) EngAct.all .session = true → False := fun hl => by
    simp [writes_of_leaves hl hmem] at hm
  cases i with
  | init x => exact .inl ⟨rfl, by simpa [hm] using initProgram_session h⟩
  | pwroff x =>
    have hk : k < 7 := (List.getElem?_eq_some_iff.1 h).1
    interval_cases k <;> obtain rfl := Option.some.inj h <;> cases hm
    exact .inr ⟨rfl, rfl⟩
  | rdch u ch =>
    refine (never ?_).elim
    simp only [programOf]
    cases channelOf ch <;> rfl
  | _ => exact (never rfl).elim

/-- A session step advances (R41). -/
theorem microTurn_seqPc_of_session {m : MicroStep} (h : m.writes .session = true) (s : State) :
    (microTurn m s).seqPc = s.seqPc + 1#5 := by
  cases m with
  | sessionClear | sessionFromId | sessionReady => rfl
  | recv n d => cases d <;> cases h
  | latch c => cases c <;> cases h
  | _ => cases h

/-- An engine turn keeps the session. -/
theorem engineTurn_session (x : Answer) (s : State) : Part.session.Same s (engineTurn x s) := by
  obtain ⟨a, -, -, e⟩ | e := engineTurn_cases x s <;> rw [e]
  · exact State.complete_same (by cases a <;> rfl) x s
  · exact .refl _ s

/-- A turn within a micro-program moves the session in a session step only. -/
theorem blockTurn_session {prog : List MicroStep} {t : Turn} {s : State}
    (h : (blockTurn prog t s).sstat.session ≠ s.sstat.session) :
    t = .sequencer ∧ ∃ m, s.sstat.busy = true ∧ prog[s.seqPc.toNat]? = some m ∧ m.writes .session = true ∧
      blockTurn prog t s = microTurn m s := by
  cases t with
  | sequencer =>
    obtain ⟨m, hb, hm, e⟩ | e := sequencerTurn_cases prog s
    · refine ⟨rfl, m, hb, hm, ?_, e⟩
      by_contra hw
      refine h ?_
      rw [blockTurn, e]
      exact (microTurn_same (f := .session) (by simpa using hw) s).1
    · exact absurd (by rw [blockTurn, e]) h
  | engine x => exact absurd (engineTurn_session x s).1 h
  | _ => exact absurd rfl h

/-- With the place of that step in its micro-program. -/
theorem blockTurn_session_place {c : Config} {i : Instr} {t : Turn} {s : State}
    (h : (blockTurn (programOf c i) t s).sstat.session ≠ s.sstat.session) :
    t = .sequencer ∧ s.sstat.busy = true ∧ (blockTurn (programOf c i) t s).seqPc = s.seqPc + 1#5 ∧
      (i.opcode = 0x16#8 ∧ (s.seqPc = 0#5 ∨ s.seqPc = 15#5 ∨ s.seqPc = 22#5) ∨
        i.opcode = 0x11#8 ∧ s.seqPc = 5#5) := by
  obtain ⟨ht, m, hb, hm, hw, e⟩ := blockTurn_session h
  refine ⟨ht, hb, e ▸ microTurn_seqPc_of_session hw s, ?_⟩
  have hpc : ∀ k : BitVec 5, s.seqPc = k ↔ s.seqPc.toNat = k.toNat := fun k => BitVec.toNat_inj.symm
  simpa [hpc] using programOf_session hm hw

/-- `SEQ.op` of a selected micro-program is its command's opcode. -/
theorem opcode_of_decodeFields {o a : Byte} {i : Instr} (h : decodeFields o a = .ok i) : i.opcode = o := by
  obtain ⟨j, hj, ho, -⟩ | hill := decodeFields_cases o a
  · rw [h] at hj
    cases hj
    exact ho
  · rw [h] at hill
    cases hill

/-- Only `INIT` and `PWROFF` have session steps, so no other command moves the session. -/
theorem exec_session {i : Instr} {s t : State} (h : exec i s = .next t)
    (hi : i.opcode ≠ 0x16#8) (hi' : i.opcode ≠ 0x11#8) : t.sstat.session = s.sstat.session := by
  have hl : leaves (programOf s.cfg i) EngAct.all .session = true := by
    refine leaves_iff.2 ⟨by decide, fun m hm => ⟨?_, fun a _ => a.mem_all⟩, fun a _ => by cases a <;> rfl⟩
    by_contra hw
    obtain ⟨k, hk⟩ := List.getElem?_of_mem hm
    obtain ⟨ho, -⟩ | ⟨ho, -⟩ := programOf_session hk (by simpa using hw)
    · exact hi ho
    · exact hi' ho
  exact (exec_same (f := .session) h rfl (by decide) hl fun _ a _ => a.mem_all).1

/-- Neither side of a host access writes the session. -/
@[simp] theorem State.hostRead_sstat (s : State) (p : HostPort) : (s.hostRead p).sstat = s.sstat := by
  obtain ⟨-, e⟩ | ⟨-, -, e⟩ | ⟨-, -, e⟩ := s.hostRead_cases p <;> simp [e]

@[simp] theorem State.hostWrite_sstat (s : State) (r : BitVec 4) (v : Word) : (s.hostWrite r v).sstat = s.sstat := by
  obtain ⟨-, -, -, e⟩ | ⟨-, -, -, e⟩ | ⟨-, e⟩ := s.hostWrite_cases r v <;> simp [e]

/-- A word written to `CMD` moves the session only as the issue of `INIT` or `PWROFF` with `BUSY = 0`. -/
theorem issueWord_session {w : Word} {s t : State} (h : issueWord w s = .next t)
    (hne : t.sstat.session ≠ s.sstat.session) :
    ∃ i, decode w = .ok i ∧ s.sstat.busy = false ∧ (i.opcode = 0x16#8 ∨ i.opcode = 0x11#8) := by
  obtain ⟨i, -, hi, e⟩ | ⟨-, e⟩ := issueWord_cases w s
  · have hexec := e.symm.trans h
    refine ⟨i, hi, ?_, ?_⟩
    · obtain ⟨-, rfl⟩ | ⟨hb, -⟩ := exec_cases hexec
      · exact absurd rfl hne
      · exact hb
    · by_contra ho
      push Not at ho
      exact hne (exec_session hexec ho.1 ho.2)
  · cases e.symm.trans h
    refine absurd ?_ hne
    unfold issueIllegal
    split <;> rfl

/-- In a coherent state the sessions of a power-up are seen in `INIT` only. -/
theorem session_of_coherent {s : State} (h : s.coherent = true) :
    s.sstat.session.settled = true ∨ (s.sstat.busy = true ∧ s.seqOp = 0x16#8) := by
  obtain hidle | ⟨i, m, hrun⟩ := State.coherent_iff.1 h
  · exact .inl hidle.session
  · by_cases hi : ∀ x, i ≠ .init x
    · exact .inl (sessionCoherent_of_ne_init hi _ _ ▸ hrun.session)
    · push Not at hi
      obtain ⟨x, rfl⟩ := hi
      exact .inr ⟨hrun.busy, (opcode_of_decodeFields hrun.decoded).symm⟩

/-- Settles O49: coherence tells the session between commands, and only the session steps move it. -/
theorem sessionTransitions : Obligations.SessionTransitions := by
  refine ⟨fun s h => ⟨fun hb => ?between, fun hs => ?within⟩, fun c i t s h => blockTurn_session_place h, ?turns⟩
  case between => exact s.sstat.session.settled_iff.1 (State.idle_of_coherent h hb).session
  case within =>
    obtain hsettled | hinit := session_of_coherent h
    · obtain hu | hr := s.sstat.session.settled_iff.1 hsettled <;> simp_all
    · exact hinit
  case turns =>
    intro s u t h hne
    have block : u = blockTurn s.program t s → t = .sequencer ∧ s.sstat.busy = true ∧
        (s.seqOp = 0x16#8 ∧ (s.seqPc = 0#5 ∨ s.seqPc = 15#5 ∨ s.seqPc = 22#5) ∨
          s.seqOp = 0x11#8 ∧ s.seqPc = 5#5) := by
      rintro rfl
      cases hd : decodeFields s.seqOp s.seqArg with
      | ok i =>
        have hp : s.program = programOf s.cfg i := by rw [State.program, hd]
        rw [hp] at hne
        obtain ⟨ht, hb, -, hplace⟩ := blockTurn_session_place hne
        rw [opcode_of_decodeFields hd] at hplace
        exact ⟨ht, hb, hplace⟩
      | illegal o =>
        have hp : s.program = [] := by rw [State.program, hd]
        obtain ⟨-, m, -, hm, -⟩ := blockTurn_session hne
        simp [hp] at hm
    cases t with
    | reset => exact .inl rfl
    | sequencer => exact .inr (.inl (block (Host.Outcome.next.inj h).symm))
    | engine x => cases (block (Host.Outcome.next.inj h).symm).1
    | delayPin level => cases (block (Host.Outcome.next.inj h).symm).1
    | host p =>
      refine .inr (.inr ?_)
      cases hw : p.we
      · cases (hostTurn_of_read hw s).symm.trans h
        simp at hne
      · by_cases ha : p.addr = cmdReg
        · have h := (hostTurn_of_command hw ha s).symm.trans h
          obtain ⟨i, hi, hb, ho⟩ := issueWord_session h (by simpa using hne)
          exact ⟨p, i, rfl, hw, ha, hi, by simpa using hb, ho⟩
        · cases (hostTurn_of_write hw ha s).symm.trans h
          simp at hne

/-! ## The end of a micro-program -/

/-- Settles O31: `DONE` stands last, and clears `BUSY`, without which the sequencer has no step. -/
theorem doneEndsTheCommand : Obligations.DoneEndsTheCommand := by
  refine ⟨fun c i => ⟨stepsOf c i, resultSource i, programOf_eq c i, ?_⟩, fun s v prog => ⟨rfl, ?_⟩⟩
  · rintro m hm u rfl
    cases stepsOf_isDone c i _ hm
  · exact sequencerTurn_of_not_busy rfl prog

end Sys2Proof.Machine
end

section
/-! The host port and reset (R21 to R26, R50, R71), the issue of a command (R36, R41, R114), and a command's run taken
one turn at a time (R131). -/

namespace Sys2Proof.Machine

/-! ## The host port -/

/-- Settles O39: the read side of an access is the register's value on `h_rdata`, or nothing. -/
theorem hostReadHasNoSideEffect : Obligations.HostReadHasNoSideEffect := by
  intro s p
  constructor
  · intro hr hw
    simp [State.hostRead, hr, hw, State.setReadData]
  · intro hr
    simp [State.hostRead, hr]

/-- The reserved numbers read 0 (R22). -/
theorem State.readReg_reserved (s : State) {r : BitVec 4} (h : 12 ≤ r.toNat) : s.readReg r = 0#16 := by
  unfold State.readReg
  split
  case h_13 => rfl
  all_goals omega

/-- Settles O42: only registers 0, 2 and 5 take a write, and the reserved numbers read 0. -/
theorem otherHostWritesChangeNothing : Obligations.OtherHostWritesChangeNothing := by
  intro s r v
  constructor
  · intro h0 h2 _
    obtain ⟨-, -, h, -⟩ | ⟨-, -, h, -⟩ | ⟨-, e⟩ := s.hostWrite_cases r v
    · exact absurd h h0
    · exact absurd h h2
    · exact e
  · intro h
    rw [(hostReadHasNoSideEffect s (HostPort.read r)).1 rfl rfl]
    simp only [HostPort.read, s.readReg_reserved h]

/-- A bit as a Boolean. -/
theorem bit_getElem_zero (b : Bit) : b[0] = (b == 1#1) := by
  revert b
  decide

theorem ofBool_beq_one (b : Bool) : (BitVec.ofBool b == 1#1) = b := by
  cases b <;> rfl

/-- A byte read as a register is zero-extended. -/
theorem zeroExtend_byte (b : Byte) : b.zeroExtend 16 = 0#8 ++ b :=
  (BitVec.setWidth_eq_append (by decide)).trans rfl

/-- The code of `SSTAT.ERRC` stands in bits 7:6 (R37). -/
theorem Sstat.toWord_errc (c : Sstat) : c.toWord.extractLsb' 6 2 = c.errc.code := by
  unfold Sstat.toWord
  iterate 6 rw [BitVec.extractLsb'_append_eq_of_le (by decide)]
  rw [BitVec.extractLsb'_append_eq_of_add_le (by decide)]
  exact BitVec.extractLsb'_eq_self

/-- The code of `SSTAT.SESSION` stands in bits 10:8 (R37). -/
theorem Sstat.toWord_session (c : Sstat) : c.toWord.extractLsb' 8 3 = c.session.code := by
  unfold Sstat.toWord
  iterate 7 rw [BitVec.extractLsb'_append_eq_of_le (by decide)]
  rw [BitVec.extractLsb'_append_eq_of_add_le (by decide)]
  exact BitVec.extractLsb'_eq_self

/-- Settles O40: each register reads as its layout says, bit by bit. -/
theorem hostRegisterMap : Obligations.HostRegisterMap := by
  intro s
  refine ⟨?con, ?stat, rfl, zeroExtend_byte _, zeroExtend_byte _, rfl, ?sstat, ?errc, ?session, rfl, rfl, rfl, rfl,
    zeroExtend_byte _, fun r hr => s.readReg_reserved hr⟩
  case con =>
    intro k
    change s.i2ccon.toWord.getLsbD k = _
    by_cases hk : k < 16
    · unfold I2ccon.toWord
      interval_cases k <;> simp only [BitVec.getLsbD_append] <;> simp [bit_getElem_zero, ofBool_beq_one]
    · rw [BitVec.getLsbD_of_ge _ _ (by omega)]
      split
      case h_9 => rfl
      all_goals omega
  case stat =>
    intro k
    change s.i2cstat.toWord.getLsbD k = _
    by_cases hk : k < 16
    · unfold I2cstat.toWord
      interval_cases k <;> simp only [BitVec.getLsbD_append] <;> simp [bit_getElem_zero, ofBool_beq_one]
    · rw [BitVec.getLsbD_of_ge _ _ (by omega)]
      split
      case h_4 => rfl
      all_goals omega
  case sstat =>
    intro k hcode
    change s.sstat.toWord.getLsbD k = _
    by_cases hk : k < 16
    · unfold Sstat.toWord
      obtain hk' | hk' := hcode
      all_goals
        interval_cases k <;> simp only [BitVec.getLsbD_append] <;> simp [bit_getElem_zero, ofBool_beq_one]
    · rw [BitVec.getLsbD_of_ge _ _ (by omega)]
      split
      case h_9 => rfl
      all_goals omega
  case errc =>
    refine s.sstat.toWord_errc.trans ?_
    cases s.sstat.errc <;> rfl
  case session =>
    refine s.sstat.toWord_session.trans ?_
    cases s.sstat.session <;> rfl

/-- Settles O43: the registers of `State.reset`, one by one. -/
theorem resetValues : Obligations.ResetValues := by
  refine ⟨by decide, by decide, rfl, rfl, rfl, rfl, by decide, rfl, rfl, rfl, rfl, rfl, rfl, rfl, rfl, rfl, rfl, rfl,
    rfl, rfl, rfl, rfl, rfl, rfl, rfl, rfl, rfl⟩

/-! ## The issue of a command -/

/-- A legal word written to `CMD` issues the instruction it decodes to. -/
theorem issueWord_of_decode {w : Word} {i : Instr} (h : decode w = .ok i) (s : State) : issueWord w s = exec i s := by
  simp [issueWord, h]

/-- Settles O7: a host turn that writes `CMD` issues the decoded instruction, and `withFetchWord` places such a turn. -/
theorem stepRunsTheIssuedCommand : Obligations.StepRunsTheIssuedCommand := by
  have hstep : ∀ (s : State) (re : Bool) (w : Word) (rest : List Turn) (i : Instr),
      s.schedule = .host { re := re, we := true, addr := 5#4, wdata := w } :: rest → decode w = .ok i →
        step s = exec i ((s.nextTurn rest).hostRead { re := re, we := true, addr := 5#4, wdata := w }) := by
    intro s re w rest i h hd
    rw [step_of_schedule_cons h, turn, hostTurn_of_command rfl rfl, issueWord_of_decode hd]
  refine ⟨hstep, fun s w i h => ?_⟩
  have hd : decode (BitVec.ofNat 16 (w % 2 ^ 16)) = .ok i := by
    unfold decodeTableWord at h
    split at h
    · rename_i j hj
      rw [hj, Option.some.inj h]
    · cases h
  exact hstep (s.withFetchWord 16 w) false _ s.schedule i rfl hd

/-- Settles O12: acceptance latches the word's two fields, and with no turn to come nothing else happens. -/
theorem acceptanceLatchesTheCommand : Obligations.AcceptanceLatchesTheCommand := by
  intro i s hb hon hv hs
  have hop : (encode i).extractLsb' 8 8 = i.opcode := opcodeOf_commandWord _ _
  have harg : (encode i).extractLsb' 0 8 = i.operand := operandOf_commandWord _ _
  rw [exec_eq_issue, hop, harg]
  simp [issue, hb, hon, hv, runCommand, hs, runTurns, State.accept, State.examine]

/-- Settles O32: the engine's completions and the issue of a command ask for `ON = 1`. -/
theorem disabledEngineDoesNothing : Obligations.DisabledEngineDoesNothing := by
  refine ⟨fun s x hon => ⟨?_, ?_⟩, fun s i hon hb => ?_, fun s v => ?_⟩
  · simp [engineTurn, hon]
  · simp [State.linesReleased, hon]
  · refine ⟨(s.examine (encode i)).refuse .engineDisabled, ?_, rfl, hb, rfl⟩
    rw [exec_eq_issue]
    simp [issue, hb, hon]
  · obtain ⟨-, -, -, e⟩ | ⟨-, -, h, -⟩ | ⟨-, e⟩ := s.hostWrite_cases 0#4 v
    · exact .inr e
    · exact absurd h (by decide)
    · exact .inl e

/-! ## A run, turn by turn -/

/-- A block turn is a step while it stands next in the schedule. -/
theorem step_of_block {s : State} {t : Turn} {rest : List Turn} (hs : s.schedule = t :: rest) (ht : t.isBlock = true) :
    step s = .next (blockTurn s.program t (s.nextTurn rest)) := by
  rw [step_of_schedule_cons hs]
  cases t with
  | host p => cases ht
  | reset => cases ht
  | _ => rfl

/-- One step, then `k` more. -/
theorem run_succ {s t : State} (h : step s = .next t) (k : Nat) :
    Sys2Proof.core.run (k + 1) s = Sys2Proof.core.run k t := by
  have h : Sys2Proof.core.step s = .next t := h
  simp only [Host.Core.run, h]

/-- The turns of a run are steps. -/
theorem run_runTurns (ts : List Turn) {s : State} (hs : s.schedule = ts) :
    ∃ k, Sys2Proof.core.run k s = .next (runTurns s.program ts s) := by
  induction ts generalizing s with
  | nil => exact ⟨0, rfl⟩
  | cons t ts ih =>
    unfold runTurns
    split
    · rename_i hb
      simp only [Bool.and_eq_true] at hb
      obtain ⟨k, hk⟩ := ih (s := blockTurn s.program t (s.nextTurn ts)) (by simp)
      exact ⟨k + 1, by rw [run_succ (step_of_block hs hb.2), hk]; simp⟩
    · exact ⟨0, rfl⟩

/-- Settles O57: an accepted command's run is its turns taken as steps, from the state of its acceptance. -/
theorem commandRunsTurnByTurn : Obligations.CommandRunsTurnByTurn := by
  intro i s t hb hon hv h
  rw [exec_eq_issue] at h
  simp only [issue, hb, hon, hv, Bool.false_eq_true, if_false, Bool.true_eq_false] at h
  cases h
  obtain ⟨k, hk⟩ := run_runTurns s.schedule (s := (s.examine (encode i)).accept i.opcode i.operand) rfl
  exact ⟨k, by rw [hk, program_of_accept]; rfl⟩

end Sys2Proof.Machine
end

section
/-! Termination (R41, R230, R304): in a few rounds, in each of which the environment completes what is in flight and the
sequencer has a turn, every micro-step is completed, and so is every accepted command. -/

namespace Sys2Proof.Machine

/-! ## The steps still to come -/

/-- Between two micro-steps of `prog`, with the steps `ms` still to come. -/
structure State.At (prog ms : List MicroStep) (s : State) : Prop where
  between : s.Between
  length : prog.length < 32
  drop : prog.drop s.seqPc.toNat = ms

theorem State.At.step {prog ms : List MicroStep} {m : MicroStep} {s : State} (h : s.At prog (m :: ms)) :
    prog[s.seqPc.toNat]? = some m := by
  rw [← List.head?_drop, h.drop, List.head?_cons]

/-- The advance of `SEQ.pc` leaves the later steps. -/
theorem State.At.succ {prog ms : List MicroStep} {m : MicroStep} {s u : State} (h : s.At prog (m :: ms))
    (hu : u.Between) (hpc : u.seqPc = s.seqPc + 1#5) : u.At prog ms := by
  have hlt : s.seqPc.toNat < prog.length := (List.getElem?_eq_some_iff.1 h.step).1
  have hlen := h.length
  have hnat : u.seqPc.toNat = s.seqPc.toNat + 1 := by
    rw [hpc, BitVec.toNat_add]
    simp
    omega
  exact ⟨hu, hlen, by rw [hnat, ← List.tail_drop, h.drop, List.tail_cons]⟩

theorem programOf_length (c : Config) (i : Instr) : (programOf c i).length < 32 := by
  have := stepsOf_length c i
  rw [programOf_eq]
  simp
  omega

/-- An accepted command has its whole micro-program to come. -/
theorem State.at_of_ready {s : State} (h : s.ready = true) (c : Config) (i : Instr) :
    ((s.examine (encode i)).accept i.opcode i.operand).At (programOf c i) (stepsOf c i ++ [.done (resultSource i)]) :=
  ⟨State.between_of_ready h _ _ _, programOf_length c i, programOf_eq c i⟩

/-- Nothing in the run of an accepted command sets `CMDERR`. -/
theorem cmderr_of_exec {i : Instr} {s t : State} (hr : s.ready = true) (hv : violates i s = false)
    (h : exec i s = .next t) : t.sstat.cmderr = false := by
  rw [exec_of_ready hr hv] at h
  cases h
  obtain ⟨-, -, -, hcmderr, -⟩ : Part.command.Same ((s.examine (encode i)).accept i.opcode i.operand) _ :=
    runTurns_same (leaves_of_isStatic rfl (programOf s.cfg i)) s.schedule fun a _ => a.mem_all
  exact hcmderr

/-! ## Rounds -/

/-- How many rounds a micro-step takes from before its request: one for the request, one for each completion. -/
def MicroStep.rounds : MicroStep → Nat
  | .delay _ => 2
  | m => m.completions + 1

/-- `INIT` takes all forty-four. -/
theorem programOf_rounds (c : Config) (i : Instr) : ((programOf c i).map MicroStep.rounds).sum ≤ 44 := by
  cases i <;>
    simp [programOf, startProgram, restartProgram, sendProgram, recvProgram, stopProgram, pwronProgram, pwroffProgram,
      settimProgram, rdidProgram, rdchProgram, rdluxProgram, initProgram, memWrite, memReadOne, memReadTwo,
      MicroStep.rounds, MicroStep.completions]

/-- Between micro-steps nothing is pending. -/
theorem State.Between.pending {s : State} (h : s.Between) : s.pending = [] :=
  s.pending_eq_nil_iff.2 ⟨h.sen, h.rsen, h.pen, h.trstat, h.rcen, h.acken⟩

section

variable {prog : List MicroStep} {s : State} (rest : List Turn)

/-- A round is the engine's turn, `dly_done` driven to 1, and the sequencer's turn. -/
theorem runTurns_round (hb : s.sstat.busy = true) (x : Answer) :
    runTurns prog (roundTurns x ++ rest) s = runTurns prog rest (sequencerTurn prog
      (((engineTurn x (s.nextTurn (.delayPin true :: .sequencer :: rest))).setDlyDone true).nextTurn rest)) := by
  have hengine : (engineTurn x (s.nextTurn (.delayPin true :: .sequencer :: rest))).sstat.busy = true := by
    obtain ⟨a, -, -, e⟩ | e := engineTurn_cases x (s.nextTurn (.delayPin true :: .sequencer :: rest)) <;> rw [e]
    · cases a <;> exact hb
    · exact hb
  change runTurns prog (.engine x :: .delayPin true :: .sequencer :: rest) s = _
  rw [runTurns_cons hb rfl, runTurns_cons (by exact hengine) rfl, runTurns_cons (by exact hengine) rfl]
  rfl

/-- Between micro-steps a round is the sequencer's turn. -/
theorem runTurns_round_of_between (h : s.Between) {m : MicroStep} (hm : prog[s.seqPc.toNat]? = some m) (x : Answer) :
    runTurns prog (roundTurns x ++ rest) s =
      runTurns prog rest (microTurn m ((s.setDlyDone true).nextTurn rest)) := by
  rw [runTurns_round rest h.busy, engineTurn_of_pending_nil (s := s.nextTurn _) h.pending,
    sequencerTurn_of_busy (by exact h.busy) (by exact hm)]
  rfl

/-- A micro-step that awaits nothing is completed by one sequencer turn. -/
theorem State.Between.microTurn (h : s.Between) {m : MicroStep} (hw : m.unwaited = true) (hd : m.isDone = false) :
    (microTurn m s).Between ∧ (microTurn m s).seqPc = s.seqPc + 1#5 := by
  cases m with
  | latch c => cases c <;> exact ⟨h.of_eq rfl rfl h.phase.symm rfl, rfl⟩
  | checkId =>
    simp only [Machine.microTurn, State.checkId]
    split <;> exact ⟨h.of_eq rfl rfl h.phase.symm rfl, rfl⟩
  | conv =>
    simp only [Machine.microTurn, State.conv]
    split <;> exact ⟨h.of_eq rfl rfl h.phase.symm rfl, rfl⟩
  | sessionClear | sessionFromId | sessionReady => exact ⟨h.of_eq rfl rfl h.phase.symm rfl, rfl⟩
  | done v => cases hd
  | start | restart | send | recv | stop | delay => cases hw

/-- A micro-step's rounds complete it, whatever the target answers. -/
theorem runTurns_rounds (h : s.Between) {m : MicroStep} (hm : prog[s.seqPc.toNat]? = some m) (hd : m.isDone = false)
    {xs : List Answer} (hx : xs.length = m.rounds) :
    ∃ u, u.Between ∧ u.seqPc = s.seqPc + 1#5 ∧
      runTurns prog (xs.flatMap roundTurns ++ rest) s = runTurns prog rest u := by
  by_cases hw : m.unwaited = true
  · obtain ⟨x, rfl⟩ : ∃ x, xs = [x] := by
      refine List.length_eq_one_iff.1 (hx.trans ?_)
      cases m with
      | start | restart | send | recv | stop | delay => cases hw
      | _ => rfl
    have hu : ((s.setDlyDone true).nextTurn rest).Between := h.of_eq rfl rfl rfl rfl
    rw [List.flatMap_singleton, runTurns_round_of_between rest h hm]
    exact ⟨_, (hu.microTurn hw hd).1, (hu.microTurn hw hd).2, rfl⟩
  obtain ⟨hb, ho, hp, h1, h2, h3, h4, h5, h6⟩ := h
  rcases s with ⟨cfg, ⟨on, disslw, ackdt, acken, rcen, pen, rsen, sen⟩, ⟨ackstat, trstat, rbf⟩, _, _, _, _, ⟨busy, _⟩⟩
  simp only at hb ho hp h1 h2 h3 h4 h5 h6 hm
  subst hb ho hp h1 h2 h3 h4 h5 h6
  cases m with
  | start | restart | stop | delay =>
    obtain ⟨x, y, rfl⟩ := List.length_eq_two.1 hx
    simp [roundTurns, runTurns, Turn.isBlock, blockTurn, State.nextTurn, sequencerTurn, microTurn, State.setDlyDone,
      engineTurn, State.engAct, State.pending, State.complete, State.advance, startPrimitive, State.requestStart,
      State.completeStart, restartPrimitive, State.requestRestart, State.completeRestart, stopPrimitive,
      State.requestStop, State.completeStop, delayPrimitive, State.requestDelay, State.endDelay, hm]
    refine ⟨_, ?_, ?_, rfl⟩ <;> constructor <;> rfl
  | send b =>
    obtain ⟨x, y, rfl⟩ := List.length_eq_two.1 hx
    by_cases hy : y.ack = 1#1
    all_goals
      simp [roundTurns, runTurns, Turn.isBlock, blockTurn, State.nextTurn, sequencerTurn, microTurn, State.setDlyDone,
        engineTurn, State.engAct, State.pending, State.complete, State.advance, sendPrimitive, State.requestSend,
        State.completeSend, State.raise, Sstat.setFlag, hy, hm]
      refine ⟨_, ?_, ?_, rfl⟩ <;> constructor <;> rfl
  | recv n d =>
    obtain ⟨x, y, z, rfl⟩ := List.length_eq_three.1 hx
    cases d
    all_goals
      simp [roundTurns, runTurns, Turn.isBlock, blockTurn, State.nextTurn, sequencerTurn, microTurn, State.setDlyDone,
        engineTurn, State.engAct, State.pending, State.complete, State.advance, recvPrimitive, State.requestReceive,
        State.completeReceive, State.requestAck, State.completeAck, State.storeReceived, hm]
      refine ⟨_, ?_, ?_, rfl⟩ <;> constructor <;> rfl
  | latch | checkId | conv | sessionClear | sessionFromId | sessionReady | done => exact absurd rfl hw

/-- The rounds of all steps to come bring the command to `BUSY = 0`. -/
theorem runTurns_all_rounds {v : ResultSrc} (ms : List MicroStep) (hms : ∀ m ∈ ms, m.isDone = false)
    (h : s.At prog (ms ++ [.done v])) (xs : List Answer) 
    (hx : ((ms ++ [MicroStep.done v]).map MicroStep.rounds).sum ≤ xs.length) :
    (runTurns prog (xs.flatMap roundTurns ++ rest) s).sstat.busy = false := by
  induction ms generalizing s xs with
  | nil =>
    cases xs with
    | nil => simp [MicroStep.rounds, MicroStep.completions] at hx
    | cons x xs =>
      rw [List.flatMap_cons, List.append_assoc, runTurns_round_of_between _ h.between h.step,
        runTurns_of_not_busy rfl]
      rfl
  | cons m ms ih =>
    simp only [List.cons_append, List.map_cons, List.sum_cons] at hx
    obtain ⟨u, hu, hpc, e⟩ := runTurns_rounds ((xs.drop m.rounds).flatMap roundTurns ++ rest) h.between h.step
      (hms m (List.mem_cons_self ..)) (List.length_take_of_le (by omega) : (xs.take m.rounds).length = m.rounds)
    rw [← List.take_append_drop m.rounds xs, List.flatMap_append, List.append_assoc, e]
    exact ih (fun m' hm' => hms m' (List.mem_cons_of_mem _ hm')) (h.succ hu hpc) _ (by rw [List.length_drop]; omega)

end

/-- Settles O26: the rounds cover the longest micro-program, `INIT`'s, which takes all forty-four. -/
theorem acceptedCommandTerminatesUnderLiveness : Obligations.AcceptedCommandTerminatesUnderLiveness := by
  intro i s xs rest hr hv hx hs
  have hexec := exec_of_ready hr hv
  refine ⟨_, hexec, ?_, cmderr_of_exec hr hv hexec⟩
  rw [hs]
  refine runTurns_all_rounds rest _ (stepsOf_isDone s.cfg i) (State.at_of_ready hr s.cfg i) xs ?_
  rw [← programOf_eq]
  exact (programOf_rounds s.cfg i).trans hx

end Sys2Proof.Machine
end

section
/-! R123: a sensor command does to the bus what the raw commands of its micro-program do. Both are runs of the same
primitives, and what a primitive does to the bus is a function of the answers and of what the bus engine shows. -/

namespace Sys2Proof.Machine

/-! ## What a primitive does to the bus -/

/-- What the raw expansion of a command must reproduce: the bus trace with its divisors, the `NOACK` diagnostics, the
bus-engine registers, `OWNED` and `OVR`. -/
structure BusView where
  trace : List BusEvent
  divisors : List Word
  noacks : List Diag
  con : I2ccon
  stat : I2cstat
  brg : Word
  trn : Byte
  rcv : Byte
  owned : Bool
  ovr : Bool

def State.busView (s : State) : BusView :=
  { trace := s.trace, divisors := s.divisors, noacks := s.diags.filter (fun d => d == .noack), con := s.i2ccon
    stat := s.i2cstat, brg := s.i2cbrg, trn := s.i2ctrn, rcv := s.i2crcv, owned := s.sstat.owned, ovr := s.sstat.ovr }

/-- One micro-step granted its completions with the answers `xs` (R140 to R148); the others leave the bus alone. -/
def BusView.step (v : BusView) : MicroStep → List Answer → BusView
  | .start, _ => { v with trace := v.trace ++ [.start], divisors := v.divisors ++ [v.brg], owned := true }
  | .restart, _ => { v with trace := v.trace ++ [.restart], divisors := v.divisors ++ [v.brg] }
  | .stop, _ => { v with trace := v.trace ++ [.stop], divisors := v.divisors ++ [v.brg], owned := false }
  | .send b, x :: _ =>
    { v with
      trace := v.trace ++ [.tx b x.ack], divisors := v.divisors ++ [v.brg], noacks := v.noacks ++ noackDiags [x.ack]
      stat := { v.stat with ackstat := x.ack }, trn := b }
  | .recv n _, x :: _ =>
    { v with
      trace := v.trace ++ [.rxd x.byte, .mack n], divisors := v.divisors ++ [v.brg, v.brg]
      con := { v.con with ackdt := n }, stat := { v.stat with rbf := false }, rcv := x.byte }
  | _, _ => v

/-- Whether a micro-step raises `BusNoAck` (R142). -/
def nackOf : MicroStep → List Answer → Bool
  | .send _, x :: _ => x.ack == 1#1
  | _, _ => false

/-- A micro-program's steps, each with its share of the answers. -/
def BusView.steps (v : BusView) : List MicroStep → List Answer → BusView
  | [], _ => v
  | m :: ms, xs => (v.step m xs).steps ms (xs.drop m.completions)

/-- Whether any of them raises `BusNoAck`. -/
def nacksOf : List MicroStep → List Answer → Bool
  | [], _ => false
  | m :: ms, xs => nackOf m xs || nacksOf ms (xs.drop m.completions)

/-- `noackDiags` are `NOACK` diagnostics. -/
theorem filter_noackDiags (acks : List Bit) : (noackDiags acks).filter (fun d => d == .noack) = noackDiags acks := by
  simp [noackDiags]

/-- The micro-steps that await nothing leave the bus alone. -/
theorem microTurn_busView {m : MicroStep} (hw : m.unwaited = true) (hd : m.isDone = false) (s : State)
    (xs : List Answer) :
    (microTurn m s).busView = s.busView.step m xs ∧ (microTurn m s).sstat.noack = s.sstat.noack ∧
      nackOf m xs = false := by
  cases m with
  | latch c => cases c <;> exact ⟨rfl, rfl, rfl⟩
  | checkId =>
    simp only [Machine.microTurn, State.checkId]
    split
    · exact ⟨rfl, rfl, rfl⟩
    · exact ⟨by simp [State.busView, BusView.step, State.advance, State.raise, Sstat.setFlag], rfl, rfl⟩
  | conv =>
    simp only [Machine.microTurn, State.conv]
    split
    · exact ⟨by simp [State.busView, BusView.step, State.advance, State.raise, Sstat.setFlag, State.storeLux], rfl, rfl⟩
    · exact ⟨rfl, rfl, rfl⟩
  | sessionClear | sessionFromId | sessionReady => exact ⟨rfl, rfl, rfl⟩
  | done v => cases hd
  | start | restart | send | recv | stop | delay => cases hw

section

variable {prog : List MicroStep} {s : State}

/-- What a micro-step granted its completions leaves. -/
structure Granted (m : MicroStep) (xs : List Answer) (rest : List Turn) (s u : State) : Prop where
  between : u.Between
  pc : u.seqPc = s.seqPc + 1#5
  busView : u.busView = s.busView.step m xs
  noack : u.sstat.noack = (s.sstat.noack || nackOf m xs)
  schedule : u.schedule = rest

/-- Every micro-step but `DONE`, granted. -/
theorem runTurns_granted (h : s.Between) {m : MicroStep} (hm : prog[s.seqPc.toNat]? = some m) (hd : m.isDone = false)
    {xs : List Answer} (hx : m.completions ≤ xs.length) (rest : List Turn) :
    ∃ u, Granted m xs rest s u ∧ runTurns prog (stepTurns m xs ++ rest) s = runTurns prog rest u := by
  by_cases hw : m.unwaited = true
  · have hc : m.completions = 0 ∧ stepTurns m [] = [.sequencer] := by
      cases m with
      | start | restart | send | recv | stop | delay => cases hw
      | _ => exact ⟨rfl, rfl⟩
    obtain ⟨hb, hpc⟩ := State.Between.microTurn (s := s.nextTurn rest) (h.of_eq rfl rfl rfl rfl) hw hd
    obtain ⟨hv, hn, hf⟩ := microTurn_busView hw hd (s.nextTurn rest) xs
    exact ⟨_, ⟨hb, hpc, hv, by rw [hn, hf]; simp, microTurn_same (f := .schedule) m.writes_schedule _⟩,
      runTurns_unwaited rest h hm hc.2 hc.1 xs⟩
  · cases m with
    | start =>
      obtain ⟨x, xs, rfl⟩ := List.exists_cons_of_length_pos hx
      refine ⟨_, ?_, runTurns_start rest h hm x xs⟩
      exact ⟨h.of_eq rfl rfl rfl rfl, rfl, rfl, by simp [nackOf], rfl⟩
    | restart =>
      obtain ⟨x, xs, rfl⟩ := List.exists_cons_of_length_pos hx
      refine ⟨_, ?_, runTurns_restart rest h hm x xs⟩
      exact ⟨h.of_eq rfl rfl rfl rfl, rfl, rfl, by simp [nackOf], rfl⟩
    | stop =>
      obtain ⟨x, xs, rfl⟩ := List.exists_cons_of_length_pos hx
      refine ⟨_, ?_, runTurns_stop rest h hm x xs⟩
      exact ⟨h.of_eq rfl rfl rfl rfl, rfl, rfl, by simp [nackOf], rfl⟩
    | send b =>
      obtain ⟨x, xs, rfl⟩ := List.exists_cons_of_length_pos hx
      refine ⟨_, ?_, runTurns_send rest h hm x xs⟩
      refine ⟨h.of_eq rfl rfl rfl rfl, rfl, ?_, rfl, rfl⟩
      simp [State.busView, BusView.step, filter_noackDiags]
    | recv n d =>
      obtain ⟨x, xs, rfl⟩ := List.exists_cons_of_length_pos (Nat.lt_of_lt_of_le Nat.two_pos hx)
      obtain ⟨y, xs, rfl⟩ := List.exists_cons_of_length_pos (Nat.lt_of_succ_lt_succ hx)
      refine ⟨_, ?_, runTurns_recv rest h hm x y xs⟩
      cases d <;> exact ⟨h.of_eq rfl rfl rfl rfl, rfl, rfl, by simp [nackOf, State.storeReceived], rfl⟩
    | delay ms =>
      refine ⟨_, ?_, runTurns_delay rest h hm xs⟩
      exact ⟨h.of_eq rfl rfl rfl rfl, rfl, rfl, by simp [nackOf], rfl⟩
    | latch | checkId | conv | sessionClear | sessionFromId | sessionReady | done => exact absurd rfl hw

/-- What a command granted its whole micro-program `ms` leaves. -/
structure Completed (ms : List MicroStep) (xs : List Answer) (rest : List Turn) (s t : State) : Prop where
  ready : t.ready = true
  busView : t.busView = s.busView.steps ms xs
  noack : t.sstat.noack = (s.sstat.noack || nacksOf ms xs)
  schedule : t.schedule = rest

/-- `DONE` leaves the machine ready for the next command. -/
theorem State.Between.ready_done (h : s.Between) (v : Word) : (s.done v).ready = true :=
  (State.ready_iff _).2 ⟨rfl, h.on, h.sen, h.rsen, h.pen, h.trstat, h.rcen, h.acken⟩

/-- A micro-program granted its completions. -/
theorem runTurns_completed {v : ResultSrc} {ms : List MicroStep} (hms : ∀ m ∈ ms, m.isDone = false)
    (h : s.At prog (ms ++ [.done v])) {xs : List Answer} (hx : (ms.map MicroStep.completions).sum ≤ xs.length)
    (rest : List Turn) :
    Completed (ms ++ [.done v]) xs rest s (runTurns prog (grant (ms ++ [.done v]) xs ++ rest) s) := by
  induction ms generalizing s xs with
  | nil =>
    have e : runTurns prog (grant [.done v] xs ++ rest) s = (s.nextTurn rest).done (s.resultOf v) := by
      have hgrant : grant [.done v] xs = stepTurns (.done v) xs := List.append_nil _
      rw [hgrant, runTurns_unwaited rest h.between h.step rfl rfl, runTurns_of_not_busy rfl]
      cases v <;> rfl
    rw [List.nil_append, e]
    exact ⟨State.Between.ready_done (s := s.nextTurn rest) (h.between.of_eq rfl rfl rfl rfl) _, rfl,
      by simp [nacksOf, nackOf], rfl⟩
  | cons m ms ih =>
    simp only [List.map_cons, List.sum_cons] at hx
    obtain ⟨u, hu, e⟩ := runTurns_granted h.between h.step (hms m (List.mem_cons_self ..)) (xs := xs) (by omega)
      (grant (ms ++ [.done v]) (xs.drop m.completions) ++ rest)
    obtain ⟨hready, hview, hnoack, hschedule⟩ := ih (fun m' hm' => hms m' (List.mem_cons_of_mem _ hm'))
      (h.succ hu.between hu.pc) (xs := xs.drop m.completions) (by rw [List.length_drop]; omega)
    have e' : runTurns prog (grant (m :: ms ++ [.done v]) xs ++ rest) s =
        runTurns prog (grant (ms ++ [.done v]) (xs.drop m.completions) ++ rest) u := by
      rw [← e, List.cons_append, grant, List.append_assoc]
    rw [e']
    exact ⟨hready, by rw [hview, hu.busView]; rfl, by rw [hnoack, hu.noack, Bool.or_assoc]; rfl, hschedule⟩

/-- A ready command granted its completions. -/
theorem exec_completed {i : Instr} (hr : s.ready = true) (hv : violates i s = false) {xs : List Answer}
    {rest : List Turn} (hs : s.schedule = grant (programOf s.cfg i) xs ++ rest)
    (hx : ((programOf s.cfg i).map MicroStep.completions).sum ≤ xs.length) :
    ∃ t, exec i s = .next t ∧ t.ready = true ∧ t.busView = s.busView.steps (programOf s.cfg i) xs ∧
      t.sstat.noack = nacksOf (programOf s.cfg i) xs ∧ t.sstat.cmderr = false ∧ t.schedule = rest := by
  have hsum : ((stepsOf s.cfg i).map MicroStep.completions).sum ≤ xs.length := by
    refine le_trans ?_ hx
    rw [programOf_eq]
    simp
  obtain ⟨hready, hview, hnoack, hschedule⟩ :=
    runTurns_completed (stepsOf_isDone s.cfg i) (State.at_of_ready hr s.cfg i) hsum rest
  rw [← programOf_eq, ← hs] at hready hview hnoack hschedule
  exact ⟨_, exec_of_ready hr hv, hready, hview, hnoack, cmderr_of_exec hr hv (exec_of_ready hr hv), hschedule⟩

/-! ## The raw expansion -/

/-- The two-step micro-program of a primitive's raw command does to the bus what the primitive does (R150). -/
theorem steps_raw {m : MicroStep} {i : Instr} (hi : rawOf m = some i) {xs : List Answer}
    (hx : m.completions ≤ xs.length) (v : BusView) (c : Config) :
    v.steps (programOf c i) (xs.take m.completions) = v.step m xs ∧
      nacksOf (programOf c i) (xs.take m.completions) = nackOf m xs := by
  cases m with
  | start | restart | stop =>
    cases hi
    exact ⟨rfl, rfl⟩
  | send b =>
    cases hi
    obtain ⟨x, xs, rfl⟩ := List.exists_cons_of_length_pos hx
    exact ⟨rfl, Bool.or_false _⟩
  | recv n d =>
    cases hi
    obtain ⟨x, xs, rfl⟩ := List.exists_cons_of_length_pos (Nat.lt_of_lt_of_le Nat.two_pos hx)
    exact ⟨rfl, rfl⟩
  | _ => cases hi

/-- The raw command of a primitive, with its two-step micro-program (R150). -/
theorem exec_raw {m : MicroStep} {i : Instr} (hi : rawOf m = some i) (hr : s.ready = true)
    (ha : m.admits s.sstat.owned = true) {xs : List Answer} (hx : m.completions ≤ xs.length) {rest : List Turn}
    (hs : s.schedule = grant (programOf s.cfg i) (xs.take m.completions) ++ rest) :
    ∃ t, exec i s = .next t ∧ t.ready = true ∧ t.busView = s.busView.step m xs ∧
      t.sstat.noack = nackOf m xs ∧ t.sstat.cmderr = false ∧ t.schedule = rest := by
  have hlen : (xs.take m.completions).length = m.completions := List.length_take_of_le hx
  have hsteps : ((programOf s.cfg i).map MicroStep.completions).sum = m.completions := by
    cases m <;> cases hi <;> rfl
  have hv : violates i s = false := by
    cases m <;> cases hi <;> simpa [violates, startsHeld, MicroStep.admits] using ha
  obtain ⟨t, hexec, hready, hview, hnoack, hcmderr, hschedule⟩ := exec_completed hr hv hs (hsteps.trans hlen.symm).le
  obtain ⟨hstep, hnack⟩ := steps_raw hi hx s.busView s.cfg
  exact ⟨t, hexec, hready, hview.trans hstep, hnoack.trans hnack, hcmderr, hschedule⟩

/-- A micro-step without a raw command leaves the bus alone and takes no answer. -/
theorem rawOf_none {m : MicroStep} (h : rawOf m = none) (v : BusView) (xs : List Answer) :
    m.completions = 0 ∧ v.step m xs = v ∧ nackOf m xs = false := by
  cases m with
  | start | restart | send | recv | stop => cases h
  | _ => exact ⟨rfl, rfl, rfl⟩

/-- A micro-step's bus is held or free afterwards as its place in the program says. -/
theorem BusView.step_owned (v : BusView) {m : MicroStep} {xs : List Answer} (hx : m.completions ≤ xs.length) :
    (v.step m xs).owned = heldAfter v.owned [m] := by
  cases m with
  | send b =>
    obtain ⟨x, xs, rfl⟩ := List.exists_cons_of_length_pos hx
    rfl
  | recv n d =>
    obtain ⟨x, xs, rfl⟩ := List.exists_cons_of_length_pos (Nat.lt_of_lt_of_le Nat.two_pos hx)
    rfl
  | _ => rfl

/-- The host's write of a legal word to `CMD` is a step that issues its instruction. -/
theorem step_of_command {i : Instr} {rest : List Turn}
    (hs : s.schedule = .host (HostPort.write cmdReg (encode i)) :: rest) : step s = exec i (s.nextTurn rest) := by
  have hd : decode (encode i) = .ok i := by
    rw [decode, encode, opcodeOf_commandWord, operandOf_commandWord, decodeFields_of_instr]
  rw [step_of_schedule_cons hs, turn, hostTurn_of_command rfl rfl]
  exact issueWord_of_decode hd _

/-- What the host finds after each raw command `k` of an expansion. -/
structure RawRun (ms : List MicroStep) (xs : List Answer) (rest : List Turn) (s : State) (r : Nat → State) : Prop where
  busView : (r (rawCount ms)).busView = s.busView.steps ms xs
  schedule : (r (rawCount ms)).schedule = rest
  noack : nacksOf ms xs = true ↔ ∃ k, k < rawCount ms ∧ (r (k + 1)).sstat.noack = true
  completes : ∀ k, k < rawCount ms → (r (k + 1)).sstat.busy = false ∧ (r (k + 1)).sstat.cmderr = false

/-- The raw commands of a well-bracketed micro-program, issued one by one and each granted its completions. -/
theorem run_rawSchedule {c : Config} {ms : List MicroStep} {xs : List Answer} {rest : List Turn} {r : Nat → State}
    (hr : s.ready = true) (hc : s.cfg = c) (hw : wellBracketed s.sstat.owned ms = true)
    (hx : (ms.map MicroStep.completions).sum ≤ xs.length) (hs : s.schedule = rawSchedule c ms xs ++ rest)
    (hrun : ∀ k, k ≤ rawCount ms → Sys2Proof.core.run k s = .next (r k)) : RawRun ms xs rest s r := by
  induction ms generalizing s xs r with
  | nil =>
    obtain rfl : s = r 0 := Host.Outcome.next.inj (hrun 0 (Nat.zero_le _))
    exact ⟨rfl, hs, by simp [nacksOf, rawCount], by simp [rawCount]⟩
  | cons m ms ih =>
    obtain ⟨ha, hw⟩ := Bool.and_eq_true_iff.1 hw
    simp only [List.map_cons, List.sum_cons] at hx
    have howned := s.busView.step_owned (m := m) (xs := xs) (by omega)
    cases hi : rawOf m with
    | none =>
      obtain ⟨hcompl, hstep, hnack⟩ := rawOf_none hi s.busView xs
      have hcount : rawCount (m :: ms) = rawCount ms := by simp [rawCount, hi]
      rw [hstep] at howned
      rw [hcount] at hrun
      obtain ⟨hview, hschedule, hnoack, hcompletes⟩ :=
        ih (xs := xs) (r := r) hr hc (by rw [show s.sstat.owned = heldAfter s.sstat.owned [m] from howned]; exact hw)
          (by omega) (by rw [hs, rawSchedule, hi]) hrun
      refine ⟨?_, hcount ▸ hschedule, ?_, hcount ▸ hcompletes⟩
      · rw [hcount, hview, BusView.steps, hstep, hcompl, List.drop_zero]
      · rw [hcount, ← hnoack, nacksOf, hnack, hcompl, List.drop_zero, Bool.false_or]
    | some i =>
      have hcount : rawCount (m :: ms) = rawCount ms + 1 := by simp [rawCount, hi]
      rw [hcount] at hrun
      subst hc
      have hs : s.schedule = .host (HostPort.write cmdReg (encode i)) ::
          (grant (programOf s.cfg i) (xs.take m.completions) ++
            (rawSchedule s.cfg ms (xs.drop m.completions) ++ rest)) := by
        simp [hs, rawSchedule, hi]
      obtain ⟨t, hexec, hready, hview, hnack, hcmderr, hschedule⟩ := exec_raw (s := s.nextTurn
        (grant (programOf s.cfg i) (xs.take m.completions) ++ (rawSchedule s.cfg ms (xs.drop m.completions) ++ rest)))
        (xs := xs) hi hr ha (by omega) rfl
      have hstep : step s = .next t := (step_of_command hs).trans hexec
      have hfirst : t = r 1 := Host.Outcome.next.inj ((run_succ hstep 0).symm.trans (hrun 1 (by omega)))
      have htowned : t.sstat.owned = heldAfter s.sstat.owned [m] := (congrArg BusView.owned hview).trans howned
      obtain ⟨hview', hschedule', hnoack', hcompletes'⟩ := ih (s := t) (r := fun k => r (k + 1))
        (xs := xs.drop m.completions) hready (exec_cfg (s := s.nextTurn _) hexec) (htowned ▸ hw)
        (by rw [List.length_drop]; omega) hschedule
        fun k hk => (run_succ hstep k).symm.trans (hrun (k + 1) (by omega))
      refine ⟨?_, ?_, ?_, ?_⟩ <;> rw [hcount]
      · rw [hview', hview]
        rfl
      · exact hschedule'
      · rw [Nat.exists_lt_succ_left, ← hnoack', ← hfirst, hnack, nacksOf, Bool.or_eq_true]
      · rw [Nat.forall_lt_succ_left, ← hfirst]
        exact ⟨⟨(t.ready_iff.1 hready).1, hcmderr⟩, hcompletes'⟩

end

/-- The sensor commands, by their opcodes (R111), begin on a free bus (R119). -/
theorem startsHeld_of_sensor {i : Instr} (h : 0x10 ≤ i.opcode.toNat) : startsHeld i = false := by
  cases i with
  | restart | send | recv | stop => simp [Sys2Proof.Instr.opcode] at h
  | _ => rfl

/-- Settles O58: both are the same primitives with the same answers, and each ends ready for the next command. -/
theorem sensorCommandEqualsRawExpansion : Obligations.SensorCommandEqualsRawExpansion := by
  intro i s xs rest r t hop hr howned hx hsensor hraw
  have hheld := startsHeld_of_sensor hop
  have hv : violates i s = false := by simp [violates, hheld, howned]
  obtain ⟨u, hexec, hready, hview, hnoack, hcmderr, hschedule⟩ :=
    exec_completed (s := s.nextTurn (grant (programOf s.cfg i) xs ++ rest)) hr hv rfl hx
  have hstep : step { s with
      schedule := .host (HostPort.write cmdReg (encode i)) :: grant (programOf s.cfg i) xs ++ rest } = .next u :=
    (step_of_command rfl).trans hexec
  obtain rfl : u = t := Host.Outcome.next.inj ((run_succ hstep 0).symm.trans hsensor)
  have hbracketed : wellBracketed s.sstat.owned (programOf s.cfg i) = true := by
    rw [howned, ← hheld]
    exact programOf_wellBracketed s.cfg i
  obtain ⟨hview', hschedule', hnoack', hcompletes⟩ :=
    run_rawSchedule (s := { s with schedule := rawSchedule s.cfg (programOf s.cfg i) xs ++ rest }) hr rfl
      hbracketed hx rfl hraw
  have hsame : u.busView = (r (rawCount (programOf s.cfg i))).busView := hview.trans hview'.symm
  simp only [State.busView, BusView.mk.injEq] at hsame
  obtain ⟨htrace, hdivisors, hdiags, hcon, hstat, -, htrn, hrcv, howned, hovr⟩ := hsame
  exact ⟨htrace, hdivisors, hdiags, hcon, hstat, htrn, hrcv, howned, hovr, hschedule.trans hschedule'.symm,
    hnoack ▸ hnoack', (u.ready_iff.1 hready).1, hcmderr, hcompletes⟩

end Sys2Proof.Machine
end

section
/-! The ghost lists (R87, R275, R279): `emit`, `raise` and `requestDelay` append to them, reset clears them, and nothing
else writes them. -/

namespace Sys2Proof.Machine

/-- The four ghost lists of `s` are prefixes of those of `t`. -/
def State.GrowsTo (s t : State) : Prop :=
  s.trace <+: t.trace ∧ s.divisors <+: t.divisors ∧ s.diags <+: t.diags ∧ s.delays <+: t.delays

theorem State.GrowsTo.refl (s : State) : s.GrowsTo s :=
  ⟨List.prefix_rfl, List.prefix_rfl, List.prefix_rfl, List.prefix_rfl⟩

theorem State.GrowsTo.trans {s t u : State} (h : s.GrowsTo t) (h' : t.GrowsTo u) : s.GrowsTo u := by
  obtain ⟨htrace, hdivisors, hdiags, hdelays⟩ := h
  obtain ⟨htrace', hdivisors', hdiags', hdelays'⟩ := h'
  exact ⟨htrace.trans htrace', hdivisors.trans hdivisors', hdiags.trans hdiags', hdelays.trans hdelays'⟩

/-! ## The three operations that append -/

theorem State.growsTo_emit (s : State) (e : BusEvent) : s.GrowsTo (s.emit e) :=
  ⟨List.prefix_append _ _, List.prefix_append _ _, List.prefix_rfl, List.prefix_rfl⟩

theorem State.growsTo_raise (s : State) (d : Diag) : s.GrowsTo (s.raise d) :=
  ⟨List.prefix_rfl, List.prefix_rfl, List.prefix_append _ _, List.prefix_rfl⟩

theorem State.growsTo_requestDelay (s : State) (ms : BitVec 10) : s.GrowsTo (s.requestDelay ms) :=
  ⟨List.prefix_rfl, List.prefix_rfl, List.prefix_rfl, List.prefix_append _ _⟩

/-! ## Turns of the block -/

/-- Each completion step of the engine sends one event; the registers it writes are no ghost list. -/
theorem State.growsTo_complete (s : State) (x : Answer) (a : EngAct) : s.GrowsTo (s.complete x a) := by
  cases a with
  | idle => exact .refl s
  | start | restart | stop | tx | rx | ack => exact s.growsTo_emit _

theorem State.growsTo_storeReceived (s : State) (d : RecvDst) : s.GrowsTo (s.storeReceived d) := by
  cases d <;> exact .refl s

theorem State.growsTo_latch (s : State) (c : Channel) : s.GrowsTo (s.latch c) := by
  cases c <;> exact .refl s

theorem State.growsTo_checkId (s : State) : s.GrowsTo s.checkId := by
  unfold State.checkId
  split
  · exact .refl s
  · exact s.growsTo_raise .badid

theorem State.growsTo_conv (s : State) : s.GrowsTo s.conv := by
  unfold State.conv
  dsimp only
  split
  · exact s.growsTo_raise .sfault
  · exact .refl s

/-- A micro-step appends where it raises a fault (`SEND`, `CHECKID`, `CONV`) or asks for a delay (`DELAY`). -/
theorem growsTo_microTurn (m : MicroStep) (s : State) : s.GrowsTo (microTurn m s) := by
  cases m with
  | start =>
    obtain ⟨-, e⟩ | ⟨-, -, e⟩ | ⟨-, -, e⟩ := startPrimitive_cases s <;> rw [microTurn, e] <;> exact .refl s
  | restart =>
    obtain ⟨-, e⟩ | ⟨-, -, e⟩ | ⟨-, -, e⟩ := restartPrimitive_cases s <;> rw [microTurn, e] <;> exact .refl s
  | stop =>
    obtain ⟨-, e⟩ | ⟨-, -, e⟩ | ⟨-, -, e⟩ := stopPrimitive_cases s <;> rw [microTurn, e] <;> exact .refl s
  | send b =>
    obtain ⟨-, e⟩ | ⟨-, -, e⟩ | ⟨-, -, -, e⟩ | ⟨-, -, -, e⟩ := sendPrimitive_cases b s <;> rw [microTurn, e]
    case inr.inr.inl => exact s.growsTo_raise .noack
    all_goals exact .refl s
  | recv n d =>
    obtain ⟨-, e⟩ | ⟨-, -, e⟩ | ⟨-, -, e⟩ | ⟨-, -, e⟩ | ⟨-, -, e⟩ := recvPrimitive_cases n d s <;> rw [microTurn, e]
    case inr.inr.inr.inr => exact s.growsTo_storeReceived d
    all_goals exact .refl s
  | delay ms =>
    obtain ⟨-, e⟩ | ⟨-, -, e⟩ | ⟨-, -, e⟩ := delayPrimitive_cases ms s <;> rw [microTurn, e]
    case inl => exact s.growsTo_requestDelay ms
    all_goals exact .refl s
  | latch c => exact s.growsTo_latch c
  | checkId => exact s.growsTo_checkId
  | conv => exact s.growsTo_conv
  | sessionClear | sessionFromId | sessionReady | done => exact .refl s

theorem growsTo_blockTurn (prog : List MicroStep) (t : Turn) (s : State) : s.GrowsTo (blockTurn prog t s) := by
  cases t with
  | sequencer =>
    obtain ⟨m, -, -, e⟩ | e := sequencerTurn_cases prog s <;> rw [blockTurn, e]
    · exact growsTo_microTurn m s
    · exact .refl s
  | engine x =>
    obtain ⟨a, -, -, e⟩ | e := engineTurn_cases x s <;> rw [blockTurn, e]
    · exact s.growsTo_complete x a
    · exact .refl s
  | delayPin | host | reset => exact .refl s

theorem growsTo_runTurns (prog : List MicroStep) (ts : List Turn) (s : State) : s.GrowsTo (runTurns prog ts s) :=
  runTurns_keeps (P := s.GrowsTo) (fun t u us _ hu => hu.trans (growsTo_blockTurn prog t (u.nextTurn us)))
    ts s (.refl s)

/-! ## The host's accesses -/

/-- The examination of a word appends nothing, whether the command is lost, refused or accepted; its run only appends. -/
theorem growsTo_exec {i : Instr} {s t : State} (h : exec i s = .next t) : s.GrowsTo t := by
  obtain ⟨-, rfl⟩ | ⟨-, u, hu, rfl⟩ := exec_cases h
  · exact .refl s
  · have hexamined : s.GrowsTo u := by obtain ⟨c, rfl⟩ | rfl := hu <;> exact .refl s
    exact hexamined.trans (growsTo_runTurns _ _ u)

theorem growsTo_issueWord {w : Word} {s t : State} (h : issueWord w s = .next t) : s.GrowsTo t := by
  obtain ⟨i, -, -, e⟩ | ⟨-, e⟩ := issueWord_cases w s
  · exact growsTo_exec (e.symm.trans h)
  · cases e.symm.trans h
    unfold issueIllegal
    split <;> exact .refl s

theorem State.growsTo_hostRead (s : State) (p : HostPort) : s.GrowsTo (s.hostRead p) := by
  obtain ⟨-, e⟩ | ⟨-, -, e⟩ | ⟨-, -, e⟩ := s.hostRead_cases p <;> rw [e] <;> exact .refl s

theorem State.growsTo_hostWrite (s : State) (r : BitVec 4) (v : Word) : s.GrowsTo (s.hostWrite r v) := by
  obtain ⟨-, -, -, e⟩ | ⟨-, -, -, e⟩ | ⟨-, e⟩ := s.hostWrite_cases r v <;> rw [e] <;> exact .refl s

/-- Settles O51: every turn but reset is made of operations that append to the ghost lists or leave them. -/
theorem tracesOnlyGrow : Obligations.TracesOnlyGrow := by
  intro s t hreset h
  obtain ⟨-, e⟩ | ⟨p, rest, -, -, -, e⟩ | ⟨p, rest, -, -, -, e⟩ | ⟨p, rest, -, -, e⟩ | ⟨rest, hs, -⟩ |
    ⟨u, rest, -, -, e⟩ := step_cases s
  case inr.inl => exact ((s.nextTurn rest).growsTo_hostRead p).trans (growsTo_issueWord (e.symm.trans h))
  case inr.inr.inr.inr.inl => exact absurd hs (hreset rest)
  all_goals
    cases e.symm.trans h
  · exact State.GrowsTo.refl s
  · exact ((s.nextTurn rest).growsTo_hostRead p).trans (State.growsTo_hostWrite _ _ _)
  · exact (s.nextTurn rest).growsTo_hostRead p
  · exact growsTo_blockTurn _ u (s.nextTurn rest)

end Sys2Proof.Machine
end

section
/-! The encoding (R110 to R113, R115, R124): the encoder and the decoder are inverse, the decoder as the mask-and-match
table, its illegal opcodes, and the wire constants of R100 to R104. -/

namespace Sys2Proof

/-! ## The encoder and the decoder are inverse -/

/-- R110 to R113: an instruction's two bytes are found again in its word, and they select it. -/
@[simp] theorem decode_encode (i : Instr) : decode (encode i) = .ok i := by
  rw [decode, encode, opcodeOf_commandWord, operandOf_commandWord, decodeFields_of_instr]

/-- A word that decodes has the opcode and the operand of what it decodes to, and they make up the word. -/
theorem decode_eq_ok_iff {w : Word} {i : Instr} : decode w = .ok i ↔ encode i = w := by
  refine ⟨fun h => ?_, fun h => h ▸ decode_encode i⟩
  obtain ⟨j, hj, ho, ha⟩ | hill := decodeFields_cases (opcodeOf w) (operandOf w)
  · cases hj.symm.trans h
    rw [encode, ho, ha, commandWord_of_fields]
  · cases hill.symm.trans h

/-- Settles O1, by the two fields of the word. -/
theorem decodeReadsBackEveryEncoding : Obligations.DecodeReadsBackEveryEncoding :=
  decode_encode

/-- Settles O2, from the word's fields. -/
theorem decodedWordIsItsEncoding : Obligations.DecodedWordIsItsEncoding :=
  fun _ _ => decode_eq_ok_iff.1

/-- Settles O5: each word is the encoding of its instruction, or its opcode has no row. -/
theorem specWordsDecode : Obligations.SpecWordsDecode := by
  refine ⟨?_, ?_, ?_, ?_, ?_, ?_, ?_, ?_, ?_, ?_, ?_, ?_, ?_, rfl, rfl⟩ <;> exact decode_eq_ok_iff.2 rfl

/-! ## Mask and match (R124) -/

/-- A row's `match` is the command word of its opcode with operand 0. -/
theorem rowMatch_eq_commandWord (o : Byte) : o.zeroExtend 16 <<< 8 = commandWord o 0#8 := by
  have h := BitVec.setWidth_append_eq_shiftLeft_setWidth_or (b := o) (b' := 0#8) (w'' := 16)
  rw [BitVec.setWidth_eq, BitVec.setWidth_zero, BitVec.or_zero] at h
  exact h.symm

/-- The mask 0xFF00 clears the operand. -/
theorem masked_eq_commandWord (w : Word) : w &&& 0xFF00#16 = commandWord (opcodeOf w) 0#8 := by
  calc w &&& 0xFF00#16
    _ = commandWord (opcodeOf w) (operandOf w) &&& commandWord (BitVec.allOnes 8) 0#8 := by
      rw [commandWord_of_fields]
      rfl
    _ = commandWord (opcodeOf w &&& BitVec.allOnes 8) (operandOf w &&& 0#8) := BitVec.and_append
    _ = commandWord (opcodeOf w) 0#8 := by rw [BitVec.and_allOnes, BitVec.and_zero]

/-- A word's masked bits are a row's `match` exactly when its opcode is the row's. -/
theorem masked_eq_rowMatch_iff (w : Word) (o : Byte) : w &&& 0xFF00#16 = o.zeroExtend 16 <<< 8 ↔ opcodeOf w = o := by
  rw [masked_eq_commandWord, rowMatch_eq_commandWord]
  exact BitVec.append_left_inj 0#8

/-- An instruction's opcode selects an instruction with any operand: the decoder reads no other bits. -/
theorem decodeFields_of_opcode (i : Instr) (a : Byte) : ∃ j, decodeFields i.opcode a = .ok j := by
  cases i <;> exact ⟨_, rfl⟩

/-- Settles O3: the masked bits are a row's `match` exactly when the opcode is the row's, and the opcode alone decides
whether the word is legal. -/
theorem decoderFollowsTableRows : Obligations.DecoderFollowsTableRows := by
  refine ⟨fun w i h => ?_, fun w ⟨i, h⟩ => ?_, fun w h => ?_⟩
  · rw [masked_eq_rowMatch_iff, ← decode_eq_ok_iff.1 h]
    exact opcodeOf_commandWord _ _
  · rw [masked_eq_rowMatch_iff] at h
    rw [decode, h]
    exact decodeFields_of_opcode i _
  · obtain ⟨i, -, ho, -⟩ | hill := decodeFields_cases (opcodeOf w) (operandOf w)
    · exact absurd ((masked_eq_rowMatch_iff w i.opcode).2 ho.symm) (h i)
    · exact hill

/-! ## Illegal opcodes (R115) -/

/-- The opcode map answers `illegal` exactly outside the set of R114. -/
theorem decodeFields_eq_illegal_iff (o a : Byte) : decodeFields o a = .illegal o ↔ legalOpcode o = false := by
  unfold decodeFields
  split
  case h_13 =>
    simp only [legalOpcode, true_iff, Bool.or_eq_false_iff, Bool.and_eq_false_iff, decide_eq_false_iff_not]
    simp only [imp_false] at *
    omega
  all_goals rename_i h; simp [legalOpcode, h]

/-- The complement of R114's set, as R115 writes it. -/
theorem legalOpcode_eq_false_iff (o : Byte) :
    legalOpcode o = false ↔ o = 0x00#8 ∨ (0x06 ≤ o.toNat ∧ o.toNat ≤ 0x0F) ∨ 0x17 ≤ o.toNat := by
  simp only [legalOpcode, Bool.or_eq_false_iff, Bool.and_eq_false_iff, decide_eq_false_iff_not,
    ← BitVec.toNat_inj, BitVec.toNat_ofNat]
  omega

/-! ## Wire constants -/

open Machine

/-- What is appended on the left counts `2 ^ n` times (R13). -/
theorem toNat_append_eq_mul_add {m n : Nat} (x : BitVec m) (y : BitVec n) :
    (x ++ y).toNat = x.toNat * 2 ^ n + y.toNat := by
  rw [BitVec.toNat_append, ← Nat.shiftLeft_add_eq_or_of_lt y.isLt, Nat.shiftLeft_eq]

/-- Settles O6: an appended word is a sum, and the command byte is checked for each of the sixteen registers. -/
theorem wireBytes : Obligations.WireBytes := by
  refine ⟨fun c => ⟨?_, ?_⟩, fun r => ?_, fun high low => ?_, fun b => ?_⟩
  · rw [addressWrite, toNat_append_eq_mul_add, Nat.mul_comm]
    rfl
  · rw [addressRead, toNat_append_eq_mul_add, Nat.mul_comm]
    rfl
  · decide +revert
  · exact toNat_append_eq_mul_add high low
  · simp [idExpected, ← BitVec.toNat_inj]

end Sys2Proof
end

section
/-! Refused commands (R115, R116, R118, R119): each reason of R117 gives the whole next state. -/

namespace Sys2Proof.Machine

/-- An illegal word is refused whatever the engine and the bus are doing between commands (R115, R117). -/
theorem issueIllegal_of_not_busy {s : State} (hb : s.sstat.busy = false) (w : Word) :
    issueIllegal w s = (s.examine w).refuse .illegalOpcode := by
  simp [issueIllegal, hb]

/-- A disabled engine refuses every command, whatever the bus is doing (R117, R118). -/
theorem exec_of_disabled {s : State} (hb : s.sstat.busy = false) (hon : s.i2ccon.on = false) (i : Instr) :
    exec i s = .next ((s.examine (encode i)).refuse .engineDisabled) := by
  simp [exec_eq_issue, issue, hb, hon]

/-- An enabled engine refuses a command that finds the bus in the wrong state (R119). -/
theorem exec_of_violates {i : Instr} {s : State} (hb : s.sstat.busy = false) (hon : s.i2ccon.on = true)
    (hv : violates i s = true) : exec i s = .next ((s.examine (encode i)).refuse .busState) := by
  simp [exec_eq_issue, issue, hb, hon, hv]

/-- A command violates R119 when the bus is held and must be free, or the other way round. -/
theorem violates_eq_true_iff {i : Instr} {s : State} : violates i s = true ↔ s.sstat.owned = !startsHeld i := by
  unfold violates
  cases startsHeld i <;> simp

/-- A command meets R119 when the bus is held exactly if it must be. -/
theorem violates_eq_false_iff {i : Instr} {s : State} : violates i s = false ↔ s.sstat.owned = startsHeld i := by
  unfold violates
  cases startsHeld i <;> simp

/-- Settles O4: the decoder rejects the complement of R114's set, and `issueIllegal` refuses what it rejects. -/
theorem illegalOpcodesAreRefused : Obligations.IllegalOpcodesAreRefused := by
  refine fun w => ⟨?_, fun s hill hb => ?_⟩
  · exact (legalOpcode_eq_false_iff _).symm.trans (decodeFields_eq_illegal_iff _ _).symm
  · rw [issueWord_of_illegal hill, issueIllegal_of_not_busy hb]
    rfl

/-- Settles O10, by the test of `ON` in `issue`. -/
theorem disabledEngineRefuses : Obligations.DisabledEngineRefuses :=
  fun i _ hb hon => exec_of_disabled hb hon i

/-- Settles O11: the statement's table of commands is `startsHeld`. -/
theorem busStateViolationRefuses : Obligations.BusStateViolationRefuses := by
  intro i s hb hon howned
  have hv : s.sstat.owned = !startsHeld i := by cases i <;> exact howned
  exact exec_of_violates hb hon (violates_eq_true_iff.2 hv)

end Sys2Proof.Machine
end

section
/-! Completed commands (R154, R176, R179): a ready command runs its micro-program as its transaction, what follows the
transaction, and `DONE`. -/

namespace Sys2Proof.Machine

/-- What grants the steps `ms`, then grants the steps after them the answers left. -/
theorem grant_append (ms ns : List MicroStep) (xs : List Answer) :
    grant (ms ++ ns) xs = grant ms xs ++ grant ns (xs.drop (ms.map MicroStep.completions).sum) := by
  induction ms generalizing xs with
  | nil => rfl
  | cons m ms ih =>
    rw [List.cons_append, grant, ih, grant, List.append_assoc, List.drop_drop, List.map_cons, List.sum_cons]

/-- `DONE v` ends the run (R44). -/
theorem runTurns_done {prog : List MicroStep} {s : State} (h : s.Between) {v : ResultSrc}
    (hm : prog[s.seqPc.toNat]? = some (.done v)) (xs : List Answer) (rest : List Turn) :
    runTurns prog (grant [.done v] xs ++ rest) s = (s.nextTurn rest).done (s.resultOf v) := by
  have hgrant : grant [.done v] xs = stepTurns (.done v) xs := List.append_nil _
  rw [hgrant, runTurns_unwaited rest h hm rfl rfl, runTurns_of_not_busy rfl]
  cases v <;> rfl

/-- A ready state that has accepted `i` is between micro-steps. -/
theorem State.between_of_accepted {s : State} (h : s.ready = true) (i : Instr) :
    ((s.examine (encode i)).accept i.opcode i.operand).Between :=
  State.between_of_ready h _ _ _

/-- `completed` keeps `OWNED`, so a transaction that frees the bus again fits it on a free bus. -/
theorem State.completed_eq_withOwned {s : State} {owned : Bool} (h : s.sstat.owned = owned) (i : Instr) (v : Word)
    (noack sfault badid : Bool) (events : List BusEvent) (diags : List Diag) (rest : List Turn) :
    s.completed i v noack sfault badid events diags rest =
      (s.completed i v noack sfault badid events diags rest).withOwned owned := by
  subst h
  rfl

/-- Settles O17: the two completions of `RECV`, then `DONE` with `I2CRCV`. -/
theorem recvCompletes : Obligations.RecvCompletes := by
  intro s unused n x y rest hr ho hs
  have hv : violates (.recv unused n) s = false := violates_eq_false_iff.2 ho
  have hb := State.between_of_accepted hr (.recv unused n)
  rw [exec_of_ready hr hv, hs, recvProgram, grant, List.append_assoc, runTurns_recv _ hb rfl, State.storeReceived,
    runTurns_done]
  · rw [State.completed, List.append_nil]
    rfl
  · exact hb.of_eq rfl rfl rfl rfl
  · rfl

/-- Settles O20: the write transaction, the end of the session, then `DONE` with 0. -/
theorem pwroffCompletes : Obligations.PwroffCompletes := by
  intro s operand x0 x1 x2 x3 x4 rest hr ho hs
  have hv : violates (.pwroff operand) s = false := violates_eq_false_iff.2 ho
  have hb := State.between_of_accepted hr (.pwroff operand)
  rw [exec_of_ready hr hv, hs, pwroffProgram, grant_append, List.append_assoc,
    runTurns_memWrite _ hb _ _ _ rfl rfl rfl rfl rfl, grant, List.append_assoc,
    runTurns_unwaited (hw := rfl) (hc := rfl), runTurns_done, State.completed_eq_withOwned ho]
  · rfl
  · exact hb.of_eq rfl rfl rfl rfl
  · rfl
  · exact hb.of_eq rfl rfl rfl rfl
  · rfl

/-- Settles O23: the two-byte read transaction with its `LATCH`, then `DONE` with the channel. -/
theorem rdchCompletes : Obligations.RdchCompletes := by
  intro s unused c x0 x1 x2 x3 x4 x5 x6 x7 x8 x9 rest hr ho hs
  have hv : violates (.rdch unused c) s = false := violates_eq_false_iff.2 ho
  have hb := State.between_of_accepted hr (.rdch unused c)
  obtain ⟨-, -, -, -, -, htrstat, -, -⟩ := s.ready_iff.1 hr
  rw [exec_of_ready hr hv, hs, rdchProgram, grant_append, List.append_assoc,
    runTurns_memReadTwo _ hb _ _ rfl rfl rfl rfl rfl rfl rfl rfl rfl, runTurns_done]
  · have hstat : I2cstat.mk x4.ack false false = { s.i2cstat with ackstat := x4.ack, rbf := false } :=
      congrArg (I2cstat.mk x4.ack · false) htrstat.symm
    rw [hstat, State.completed_eq_withOwned ho]
    by_cases hc : c = 0#1
    · subst hc
      rfl
    · have hch : channelOf c = .ch1 := if_neg hc
      rw [hch, if_neg hc, if_neg hc, if_neg hc]
      rfl
  · exact hb.of_eq rfl rfl rfl rfl
  · rfl

end Sys2Proof.Machine
end

section
/-! The primitives and the engine's completion steps, one rule per case (R130 to R148), and the faults a micro-step raises
(R142, R181, R194, R268). -/

namespace Sys2Proof.Machine

/-! ## The first turn of a primitive -/

section

variable {s : State} (h : s.seqPhase = .request)
include h

theorem startPrimitive_of_request : startPrimitive s = s.requestStart := by
  simp [startPrimitive, h]

theorem restartPrimitive_of_request : restartPrimitive s = s.requestRestart := by
  simp [restartPrimitive, h]

theorem stopPrimitive_of_request : stopPrimitive s = s.requestStop := by
  simp [stopPrimitive, h]

theorem sendPrimitive_of_request (b : Byte) : sendPrimitive b s = s.requestSend b := by
  simp [sendPrimitive, h]

theorem recvPrimitive_of_request (n : Bit) (d : RecvDst) : recvPrimitive n d s = s.requestReceive := by
  simp [recvPrimitive, h]

end

/-- The second request of `RECV`, once the byte is there (R146). -/
theorem recvPrimitive_of_rbf {s : State} (h : s.seqPhase = .wait) (hr : s.i2cstat.rbf = true) (n : Bit) (d : RecvDst) :
    recvPrimitive n d s = s.requestAck n := by
  simp [recvPrimitive, h, hr]

/-! ## The await of a primitive -/

section

variable {s : State} (h : s.seqPhase ≠ .request)
include h

theorem startPrimitive_of_sen (hp : s.i2ccon.sen = true) : startPrimitive s = s := by
  obtain ⟨h', -⟩ | ⟨-, -, e⟩ | ⟨-, hn, -⟩ := startPrimitive_cases s
  · exact absurd h' h
  · exact e
  · simp [hp] at hn

theorem restartPrimitive_of_rsen (hp : s.i2ccon.rsen = true) : restartPrimitive s = s := by
  obtain ⟨h', -⟩ | ⟨-, -, e⟩ | ⟨-, hn, -⟩ := restartPrimitive_cases s
  · exact absurd h' h
  · exact e
  · simp [hp] at hn

theorem stopPrimitive_of_pen (hp : s.i2ccon.pen = true) : stopPrimitive s = s := by
  obtain ⟨h', -⟩ | ⟨-, -, e⟩ | ⟨-, hn, -⟩ := stopPrimitive_cases s
  · exact absurd h' h
  · exact e
  · simp [hp] at hn

theorem sendPrimitive_of_trstat (hp : s.i2cstat.trstat = true) (b : Byte) : sendPrimitive b s = s := by
  obtain ⟨h', -⟩ | ⟨-, -, e⟩ | ⟨-, hn, -⟩ | ⟨-, hn, -⟩ := sendPrimitive_cases b s
  · exact absurd h' h
  · exact e
  · simp [hp] at hn
  · simp [hp] at hn

theorem delayPrimitive_of_not_dlyDone (hp : s.dlyDone = false) (ms : BitVec 10) : delayPrimitive ms s = s := by
  obtain ⟨h', -⟩ | ⟨-, -, e⟩ | ⟨-, hd, -⟩ := delayPrimitive_cases ms s
  · exact absurd h' h
  · exact e
  · simp [hp] at hd

end

theorem recvPrimitive_of_not_rbf {s : State} (h : s.seqPhase = .wait) (hr : s.i2cstat.rbf = false) (n : Bit)
    (d : RecvDst) : recvPrimitive n d s = s := by
  simp [recvPrimitive, h, hr]

theorem recvPrimitive_of_acken {s : State} (h : s.seqPhase = .ackWait) (ha : s.i2ccon.acken = true) (n : Bit)
    (d : RecvDst) : recvPrimitive n d s = s := by
  simp [recvPrimitive, h, ha]

/-- Settles O29: each primitive polls what it has requested. -/
theorem waitingSequencerChangesNothing : Obligations.WaitingSequencerChangesNothing :=
  fun _ h => ⟨startPrimitive_of_sen h, restartPrimitive_of_rsen h, stopPrimitive_of_pen h,
    fun b hp => sendPrimitive_of_trstat h hp b, fun n d hw hr => recvPrimitive_of_not_rbf hw hr n d,
    fun n d hw ha => recvPrimitive_of_acken hw ha n d, fun ms hd => delayPrimitive_of_not_dlyDone h hd ms⟩

/-! ## The completion steps -/

/-- An enabled engine completes the operation in flight (R130). -/
theorem engineTurn_of_engAct {s : State} {a : EngAct} (hon : s.i2ccon.on = true) (ha : s.engAct = some a) (x : Answer) :
    engineTurn x s = s.complete x a := by
  simp [engineTurn, hon, ha]

/-- Settles O28: the requests of the primitives, then the completion step of each activity. -/
theorem engineOperations : Obligations.EngineOperations := by
  refine fun s x b n d => ⟨fun h => ?requests, fun h hr => recvPrimitive_of_rbf h hr n d, fun hon => ?completions⟩
  case requests =>
    exact ⟨startPrimitive_of_request h, restartPrimitive_of_request h, stopPrimitive_of_request h,
      sendPrimitive_of_request h b, recvPrimitive_of_request h n d⟩
  case completions =>
    exact ⟨fun ha => engineTurn_of_engAct hon ha x, fun ha => engineTurn_of_engAct hon ha x,
      fun ha => engineTurn_of_engAct hon ha x, fun ha => engineTurn_of_engAct hon ha x,
      fun ha => engineTurn_of_engAct hon ha x, fun ha => engineTurn_of_engAct hon ha x⟩

/-! ## The faults -/

/-- A completed `SEND` raises `BusNoAck` if the target has not acknowledged (R142). -/
theorem sendPrimitive_of_not_trstat {s : State} (h : s.seqPhase ≠ .request) (ht : s.i2cstat.trstat = false) (b : Byte) :
    sendPrimitive b s = if s.i2cstat.ackstat = 1#1 then (s.raise .noack).advance else s.advance := by
  obtain ⟨h', -⟩ | ⟨-, hp, -⟩ | ⟨-, -, ha, e⟩ | ⟨-, -, ha, e⟩ := sendPrimitive_cases b s
  · exact absurd h' h
  · simp [ht] at hp
  · rw [e, if_pos ha]
  · rw [e, if_neg ha]

/-- The unexpected ID bytes (R104). -/
theorem idExpected_eq_false_iff (b : Byte) : idExpected b = false ↔ b ≠ 0x10#8 ∧ b ≠ 0x50#8 := by
  simp [idExpected]

/-- `CHECKID` raises `UnexpectedDeviceId` on those (R181). -/
theorem State.checkId_eq (s : State) :
    s.checkId = if s.idr ≠ 0x10#8 ∧ s.idr ≠ 0x50#8 then s.raise .badid else s := by
  simp only [← idExpected_eq_false_iff, State.checkId]
  cases idExpected s.idr <;> rfl

/-- Settles O33: each of the three micro-steps raises its fault, or does not, and then advances. -/
theorem raisedFaultIsFlagAndDiagnostic : Obligations.RaisedFaultIsFlagAndDiagnostic := by
  refine ⟨⟨rfl, rfl, rfl⟩, fun s b hp ht => ?send, fun s => ?checkId, fun s => ?conv⟩
  case send => exact sendPrimitive_of_not_trstat (by simp [hp]) ht b
  case checkId =>
    rw [microTurn, s.checkId_eq, apply_ite State.advance]
    rfl
  case conv =>
    rw [microTurn, State.conv, apply_ite State.advance]
    rfl

end Sys2Proof.Machine
end

section
/-! The raw commands of one completion (R151, R152, R153, R155): a primitive, then `DONE`. -/

namespace Sys2Proof.Machine

/-- A ready command whose micro-program is the step `m` and `DONE`: when the turns granted to `m` lead to `u`, the rest
is `DONE`'s turn. -/
theorem exec_of_granted_step {i : Instr} {s u : State} {m : MicroStep} {v : ResultSrc} {xs : List Answer}
    {rest : List Turn} (hr : s.ready = true) (ho : s.sstat.owned = startsHeld i) (hp : programOf s.cfg i = [m, .done v])
    (hs : s.schedule = grant [m, .done v] xs ++ rest)
    (hm : runTurns (programOf s.cfg i) (stepTurns m xs ++ (grant [.done v] (xs.drop m.completions) ++ rest))
        ((s.examine (encode i)).accept i.opcode i.operand) =
      runTurns (programOf s.cfg i) (grant [.done v] (xs.drop m.completions) ++ rest) u)
    (hu : u.Between) (hpc : u.seqPc = 1#5) : exec i s = .next ((u.nextTurn rest).done (u.resultOf v)) := by
  have hdone : (programOf s.cfg i)[u.seqPc.toNat]? = some (.done v) := by
    rw [hp, hpc]
    rfl
  rw [exec_of_ready hr (violates_eq_false_iff.2 ho), hs, grant, List.append_assoc, hm, runTurns_done hu hdone]

/-- Settles O14: the completion of `START`, then `DONE` with 0. -/
theorem startCompletes : Obligations.StartCompletes := by
  intro s operand x rest hr ho hs
  have hb := State.between_of_accepted hr (.start operand)
  rw [exec_of_granted_step (i := .start operand) hr ho rfl hs (runTurns_start _ hb rfl x [])
    (hb.of_eq rfl rfl rfl rfl) rfl, State.completed, List.append_nil]
  rfl

/-- Settles O15: the completion of `RESTART`, then `DONE` with 0. -/
theorem restartCompletes : Obligations.RestartCompletes := by
  intro s operand x rest hr ho hs
  have hb := State.between_of_accepted hr (.restart operand)
  rw [exec_of_granted_step (i := .restart operand) hr ho rfl hs (runTurns_restart _ hb rfl x [])
    (hb.of_eq rfl rfl rfl rfl) rfl, State.completed, List.append_nil]
  rfl

/-- The diagnostics of one byte (R142). -/
theorem noackDiags_singleton (a : Bit) : noackDiags [a] = if a = 1#1 then [.noack] else [] := by
  by_cases ha : a = 1#1 <;> simp [noackDiags, ha]

/-- Settles O16: the completion of `SEND` with the target's bit, then `DONE` with `ACKSTAT`. -/
theorem sendCompletes : Obligations.SendCompletes := by
  intro s b x rest hr ho hs
  have hb := State.between_of_accepted hr (.send b)
  rw [exec_of_granted_step (i := .send b) hr ho rfl hs (runTurns_send _ hb rfl x [])
    (hb.of_eq rfl rfl rfl rfl) rfl, noackDiags_singleton]
  rfl

/-- Settles O18: the completion of `STOP`, then `DONE` with 0. -/
theorem stopCompletes : Obligations.StopCompletes := by
  intro s operand x rest hr ho hs
  have hb := State.between_of_accepted hr (.stop operand)
  rw [exec_of_granted_step (i := .stop operand) hr ho rfl hs (runTurns_stop _ hb rfl x [])
    (hb.of_eq rfl rfl rfl rfl) rfl, State.completed, List.append_nil]
  rfl

end Sys2Proof.Machine
end

section
/-! The hang without bus completions (R131, R265, R304): every micro-program comes to a primitive at once, and a primitive
waits for the engine. -/

namespace Sys2Proof.Machine

/-! ## A primitive without the engine -/

/-- The primitive `m` has still to make its request, or awaits an operation that is pending. -/
def MicroStep.Uncompleted (m : MicroStep) (s : State) : Prop :=
  m.requests ≠ [] ∧ (s.seqPhase = .request ∨ ∃ a, m.awaited s.seqPhase = some a ∧ a ∈ s.pending)

/-- What a primitive's turn leaves of it while the engine has no turn. -/
structure Waits (m : MicroStep) (s t : State) : Prop where
  uncompleted : m.Uncompleted t
  pc : t.seqPc = s.seqPc
  sstat : t.sstat = s.sstat
  trace : t.trace = s.trace

/-- A request, once made, is awaited. -/
theorem Waits.of_requested {m : MicroStep} {s t : State} {a : EngAct} (hm : m.awaited t.seqPhase = some a)
    (ha : a ∈ t.pending) (hpc : t.seqPc = s.seqPc) (hsstat : t.sstat = s.sstat) (htrace : t.trace = s.trace) :
    Waits m s t :=
  ⟨⟨List.ne_nil_of_mem (m.mem_requests_of_awaited hm), .inr ⟨a, hm, ha⟩⟩, hpc, hsstat, htrace⟩

/-- A primitive's first turn requests an operation. -/
theorem waits_of_request {m : MicroStep} {s : State} (hm : m.requests ≠ []) (hp : s.seqPhase = .request) :
    Waits m s (microTurn m s) := by
  cases m with
  | start =>
    rw [microTurn, startPrimitive_of_request hp]
    exact .of_requested rfl ((State.mem_pending_iff _ _).2 rfl) rfl rfl rfl
  | restart =>
    rw [microTurn, restartPrimitive_of_request hp]
    exact .of_requested rfl ((State.mem_pending_iff _ _).2 rfl) rfl rfl rfl
  | stop =>
    rw [microTurn, stopPrimitive_of_request hp]
    exact .of_requested rfl ((State.mem_pending_iff _ _).2 rfl) rfl rfl rfl
  | send b =>
    rw [microTurn, sendPrimitive_of_request hp]
    exact .of_requested rfl ((State.mem_pending_iff _ _).2 rfl) rfl rfl rfl
  | recv n d =>
    rw [microTurn, recvPrimitive_of_request hp]
    exact .of_requested rfl ((State.mem_pending_iff _ _).2 rfl) rfl rfl rfl
  | _ => exact absurd rfl hm

/-- While what it awaits is pending a primitive polls; only `RECV`, with `RBF` left set by an earlier byte, goes on, to
its second request. -/
theorem microTurn_of_awaited {m : MicroStep} {s : State} {a : EngAct} (ha : m.awaited s.seqPhase = some a)
    (hmem : a ∈ s.pending) : microTurn m s = s ∨ ∃ n d, m = .recv n d ∧ microTurn m s = s.requestAck n := by
  have hbit := (s.mem_pending_iff a).1 hmem
  cases m <;> cases hp : s.seqPhase <;> simp only [hp, MicroStep.awaited, Option.some.injEq, reduceCtorEq] at ha <;>
    subst ha
  case start.wait => exact .inl (startPrimitive_of_sen (by simp [hp]) hbit)
  case restart.wait => exact .inl (restartPrimitive_of_rsen (by simp [hp]) hbit)
  case stop.wait => exact .inl (stopPrimitive_of_pen (by simp [hp]) hbit)
  case send.wait b => exact .inl (sendPrimitive_of_trstat (by simp [hp]) hbit b)
  case recv.ackWait n d => exact .inl (recvPrimitive_of_acken hp hbit n d)
  case recv.wait n d =>
    cases hr : s.i2cstat.rbf with
    | false => exact .inl (recvPrimitive_of_not_rbf hp hr n d)
    | true => exact .inr ⟨n, d, rfl, recvPrimitive_of_rbf hp hr n d⟩

/-- So every sequencer turn leaves it uncompleted. -/
theorem MicroStep.Uncompleted.microTurn {m : MicroStep} {s : State} (h : m.Uncompleted s) :
    Waits m s (microTurn m s) := by
  obtain ⟨hm, hp | ⟨a, ha, hmem⟩⟩ := h
  · exact waits_of_request hm hp
  · obtain e | ⟨n, d, rfl, e⟩ := microTurn_of_awaited ha hmem <;> rw [e]
    · exact ⟨⟨hm, .inr ⟨a, ha, hmem⟩⟩, rfl, rfl, rfl⟩
    · exact .of_requested rfl ((State.mem_pending_iff _ _).2 rfl) rfl rfl rfl

/-! ## A command without the engine -/

/-- A running command at an uncompleted primitive, or at a session step in front of one (`INIT`'s step 0). -/
structure State.Hangs (prog : List MicroStep) (s : State) : Prop where
  busy : s.sstat.busy = true
  step : (∃ m, prog[s.seqPc.toNat]? = some m ∧ m.Uncompleted s) ∨
    ∃ x m, prog[s.seqPc.toNat]? = some (.sessionClear x) ∧ prog[(s.seqPc + 1#5).toNat]? = some m ∧ m.requests ≠ []

/-- Every command starts so. -/
theorem State.hangs_of_accepted (s : State) (c : Config) (i : Instr) :
    ((s.examine (encode i)).accept i.opcode i.operand).Hangs (programOf c i) := by
  refine ⟨rfl, ?_⟩
  cases i with
  | init operand => exact .inr ⟨.poweringUp, .start, rfl, rfl, List.cons_ne_nil _ _⟩
  | _ => exact .inl ⟨_, rfl, List.cons_ne_nil _ _, .inl rfl⟩

/-- Only the engine could complete the primitive. -/
theorem State.Hangs.blockTurn {prog : List MicroStep} {s : State} (h : s.Hangs prog) {t : Turn}
    (ht : ∀ x, t ≠ .engine x) : (blockTurn prog t s).Hangs prog ∧ (blockTurn prog t s).trace = s.trace := by
  cases t with
  | engine x => exact absurd rfl (ht x)
  | delayPin level => exact ⟨⟨h.busy, h.step⟩, rfl⟩
  | host | reset => exact ⟨h, rfl⟩
  | sequencer =>
    obtain ⟨m, hm, hun⟩ | ⟨x, m, hx, hm, hr⟩ := h.step
    · obtain ⟨hun', hpc, hsstat, htrace⟩ := hun.microTurn
      rw [Machine.blockTurn, sequencerTurn_of_busy h.busy hm]
      exact ⟨⟨hsstat ▸ h.busy, .inl ⟨m, hpc ▸ hm, hun'⟩⟩, htrace⟩
    · rw [Machine.blockTurn, sequencerTurn_of_busy h.busy hx]
      exact ⟨⟨h.busy, .inl ⟨m, hm, hr, .inl rfl⟩⟩, rfl⟩

/-- Nor does a whole run without engine turns. -/
theorem State.Hangs.runTurns {prog : List MicroStep} {s : State} (h : s.Hangs prog) {ts : List Turn}
    (hts : ∀ x, Turn.engine x ∉ ts) : (runTurns prog ts s).Hangs prog ∧ (runTurns prog ts s).trace = s.trace := by
  induction ts generalizing s with
  | nil => exact ⟨h, rfl⟩
  | cons t ts ih =>
    rw [Machine.runTurns]
    split
    · have hnext : (s.nextTurn ts).Hangs prog := ⟨h.busy, h.step⟩
      obtain ⟨hhangs, htrace⟩ := hnext.blockTurn (t := t) fun x e => hts x (e ▸ List.mem_cons_self ..)
      obtain ⟨hrun, htrace'⟩ := ih hhangs fun x hx => hts x (List.mem_cons_of_mem _ hx)
      exact ⟨hrun, htrace'.trans htrace⟩
    · exact ⟨h, rfl⟩

/-- Settles O27: the accepted command comes to its first primitive and waits there. -/
theorem commandHangsWithoutCompletions : Obligations.CommandHangsWithoutCompletions := by
  intro i s t hr hv hts h
  obtain ⟨hhangs, htrace⟩ := (s.hangs_of_accepted s.cfg i).runTurns hts
  cases (exec_of_ready hr hv).symm.trans h
  exact ⟨hhangs.busy, htrace⟩

end Sys2Proof.Machine
end

section
/-! Completed sensor commands (R175, R177, R178, R192): a register write is one transaction; `RDID` and `RDLUX` follow
theirs with `CHECKID` and `CONV`. -/

namespace Sys2Proof.Machine

variable {prog : List MicroStep} {s : State}

/-- `CHECKID`, granted: `BADID` and one diagnostic if the ID is an unexpected one (R181). -/
theorem runTurns_checkId (rest : List Turn) (h : s.Between) (hm : prog[s.seqPc.toNat]? = some .checkId)
    (xs : List Answer) :
    runTurns prog (stepTurns .checkId xs ++ rest) s = runTurns prog rest
      { s with
        sstat := { s.sstat with badid := s.sstat.badid || !idExpected s.idr }
        diags := s.diags ++ if idExpected s.idr then [] else [.badid]
        seqPc := s.seqPc + 1#5
        seqPhase := .request
        diagPort := if idExpected s.idr then none else some .badid
        schedule := rest } := by
  rw [runTurns_unwaited rest h hm rfl rfl, microTurn, State.checkId]
  have hidr : (s.nextTurn rest).idr = s.idr := rfl
  rw [hidr]
  cases idExpected s.idr
  · simp only [Bool.not_false, Bool.or_true]
    rfl
  · simp only [Bool.not_true, Bool.or_false, if_true, List.append_nil]
    rfl

/-- `CONV`, granted: `LUX`, and `SFAULT` with one diagnostic if the converter reports a fault (R194). -/
theorem runTurns_conv (rest : List Turn) (h : s.Between) (hm : prog[s.seqPc.toNat]? = some .conv) (xs : List Answer) :
    runTurns prog (stepTurns .conv xs ++ rest) s = runTurns prog rest
      { s with
        lux := BitVec.ofNat 16 (luxconv s.cfg.ch0ZeroIsFault s.ch0 s.ch1).1
        sstat := { s.sstat with sfault := s.sstat.sfault || (luxconv s.cfg.ch0ZeroIsFault s.ch0 s.ch1).2 }
        diags := s.diags ++ if (luxconv s.cfg.ch0ZeroIsFault s.ch0 s.ch1).2 then [.sfault] else []
        seqPc := s.seqPc + 1#5
        seqPhase := .request
        diagPort := if (luxconv s.cfg.ch0ZeroIsFault s.ch0 s.ch1).2 then some .sfault else none
        schedule := rest } := by
  rw [runTurns_unwaited rest h hm rfl rfl, microTurn, State.conv]
  have hconv : luxconv (s.nextTurn rest).cfg.ch0ZeroIsFault (s.nextTurn rest).ch0 (s.nextTurn rest).ch1 =
      luxconv s.cfg.ch0ZeroIsFault s.ch0 s.ch1 := rfl
  rw [hconv]
  obtain ⟨l, fault⟩ := luxconv s.cfg.ch0ZeroIsFault s.ch0 s.ch1
  cases fault
  · simp only [Bool.or_false, Bool.false_eq_true, if_false, List.append_nil]
    rfl
  · simp only [Bool.or_true, if_true]
    rfl

/-- A ready command whose micro-program is a register write and `DONE` with 0 (R172, R175, R177). -/
theorem exec_of_granted_memWrite {i : Instr} {reg : BitVec 4} {v : Byte} {x0 x1 x2 x3 x4 : Answer} {rest : List Turn}
    (hr : s.ready = true) (hv : violates i s = false) (ho : s.sstat.owned = false)
    (hp : programOf s.cfg i = memWrite s.cfg reg v ++ [.done .zero])
    (hs : s.schedule = grant (memWrite s.cfg reg v ++ [.done .zero]) [x0, x1, x2, x3, x4] ++ rest) :
    exec i s = .next
      { (s.completed i 0#16 (anyNack [x1.ack, x2.ack, x3.ack]) false false
          (writeEvents s.cfg reg v x1.ack x2.ack x3.ack) (noackDiags [x1.ack, x2.ack, x3.ack])
          rest).withAckstat x3.ack with i2ctrn := v } := by
  have hb := State.between_of_accepted hr i
  rw [exec_of_ready hr hv, hs, hp, grant_append, List.append_assoc,
    runTurns_memWrite _ hb _ _ _ rfl rfl rfl rfl rfl, runTurns_done, State.completed_eq_withOwned ho]
  · rfl
  · exact hb.of_eq rfl rfl rfl rfl
  · rfl

/-- Settles O19: the write of 0x03 to the control register. -/
theorem pwronCompletes : Obligations.PwronCompletes :=
  fun _ _ _ _ _ _ _ _ hr ho hs => exec_of_granted_memWrite hr (violates_eq_false_iff.2 ho) ho rfl hs

/-- Settles O21: the write of the operand to the timing register. -/
theorem settimCompletes : Obligations.SettimCompletes :=
  fun _ _ _ _ _ _ _ _ hr ho hs => exec_of_granted_memWrite hr (violates_eq_false_iff.2 ho) ho rfl hs

/-- A ready state transmits nothing, so a read transaction leaves only the target's last bit in `I2CSTAT` (R182). -/
theorem State.i2cstat_of_ready (hr : s.ready = true) (a : Bit) :
    I2cstat.mk a false false = { s.i2cstat with ackstat := a, rbf := false } := by
  obtain ⟨-, -, -, -, -, htrstat, -, -⟩ := s.ready_iff.1 hr
  exact congrArg (I2cstat.mk a · false) htrstat.symm

/-- `BADID` as the statements write it (R104, R181). -/
theorem bne_and_bne_eq_not_idExpected (b : Byte) : (b != 0x10#8 && b != 0x50#8) = !idExpected b := by
  rw [idExpected, Bool.not_or]
  rfl

/-- The diagnostics of `CHECKID` as the statements write them (R104, R181). -/
theorem ite_eq_ite_idExpected (b : Byte) (ds es : List Diag) :
    (if b = 0x10#8 ∨ b = 0x50#8 then ds else es) = if idExpected b then ds else es := by
  simp only [idExpected, Bool.or_eq_true, beq_iff_eq]

/-- Settles O22: the one-byte read transaction, the check of the ID, then `DONE` with the ID. -/
theorem rdidCompletes : Obligations.RdidCompletes := by
  intro s operand x0 x1 x2 x3 x4 x5 x6 x7 rest hr ho hs
  have hv : violates (.rdid operand) s = false := violates_eq_false_iff.2 ho
  have hb := State.between_of_accepted hr (.rdid operand)
  rw [exec_of_ready hr hv, hs, rdidProgram, grant_append, List.append_assoc,
    runTurns_memReadOne _ hb _ _ rfl rfl rfl rfl rfl rfl rfl, grant, List.append_assoc, runTurns_checkId,
    runTurns_done, State.i2cstat_of_ready hr, bne_and_bne_eq_not_idExpected, ite_eq_ite_idExpected,
    State.completed_eq_withOwned ho, State.completed, ← List.append_assoc s.diags]
  · rfl
  · exact hb.of_eq rfl rfl rfl rfl
  · rfl
  · exact hb.of_eq rfl rfl rfl rfl
  · rfl

/-- `NOACK` over two transactions is the OR of both (R180). -/
theorem anyNack_append (as bs : List Bit) : anyNack (as ++ bs) = (anyNack as || anyNack bs) :=
  List.any_append

/-- The diagnostics of two transactions follow one another (R180). -/
theorem noackDiags_append (as bs : List Bit) : noackDiags (as ++ bs) = noackDiags as ++ noackDiags bs := by
  rw [noackDiags, List.filter_append, List.map_append, noackDiags, noackDiags]

/-- Settles O24: the two-byte read transaction of each channel, the conversion, then `DONE` with `LUX`. -/
theorem rdluxCompletes : Obligations.RdluxCompletes := by
  intro s operand x0 x1 x2 x3 x4 x5 x6 x7 x8 x9 y0 y1 y2 y3 y4 y5 y6 y7 y8 y9 rest hr ho hs
  have hv : violates (.rdlux operand) s = false := violates_eq_false_iff.2 ho
  have hb := State.between_of_accepted hr (.rdlux operand)
  have hgrant : grant (rdluxProgram s.cfg)
      [x0, x1, x2, x3, x4, x5, x6, x7, x8, x9, y0, y1, y2, y3, y4, y5, y6, y7, y8, y9] =
      grant (memReadTwo s.cfg .ch0) [x0, x1, x2, x3, x4, x5, x6, x7, x8, x9] ++
        (grant (memReadTwo s.cfg .ch1) [y0, y1, y2, y3, y4, y5, y6, y7, y8, y9] ++
          (stepTurns .conv [] ++ grant [.done .lux] [])) := rfl
  have hnack : anyNack [x1.ack, x2.ack, x4.ack, y1.ack, y2.ack, y4.ack] =
      (anyNack [x1.ack, x2.ack, x4.ack] || anyNack [y1.ack, y2.ack, y4.ack]) := anyNack_append [_, _, _] _
  have hdiags : noackDiags [x1.ack, x2.ack, x4.ack, y1.ack, y2.ack, y4.ack] =
      noackDiags [x1.ack, x2.ack, x4.ack] ++ noackDiags [y1.ack, y2.ack, y4.ack] := noackDiags_append [_, _, _] _
  rw [exec_of_ready hr hv, hs, hgrant, List.append_assoc, List.append_assoc, List.append_assoc,
    runTurns_memReadTwo _ hb _ _ rfl rfl rfl rfl rfl rfl rfl rfl rfl,
    runTurns_memReadTwo, runTurns_conv, runTurns_done, State.i2cstat_of_ready hr, hnack, hdiags,
    State.completed_eq_withOwned ho, State.completed, List.length_append, List.replicate_add,
    ← List.append_assoc s.trace, ← List.append_assoc s.divisors, ← List.append_assoc s.diags,
    ← List.append_assoc s.diags]
  -- Each lemma asks that its step begins between micro-steps, and that the program has the step there.
  any_goals exact hb.of_eq rfl rfl rfl rfl
  all_goals rfl

end Sys2Proof.Machine
end

section
/-! What the register writes leave, under every schedule (R175, R176, R177, R182, R226). -/

namespace Sys2Proof.Machine

/-- Settles O54: a register write moves bytes to the target only, and only `PWROFF` has a session step. -/
theorem registerWriteFrame : Obligations.RegisterWriteFrame := by
  intro i s t hpending hwrite h
  have hs : s.sstat.busy = false → s.pending ⊆ [EngAct.start, .tx, .stop] := fun hb => by simp [hpending hb]
  have hparts : ∀ f ∈ [Part.ackdt, .i2crcv, .rbf, .ch0, .ch1, .lux, .idr, .seqLo, .delayPort], f.Same s t := by
    refine exec_same_all h _ ?_ hs
    cases i with
    | pwron | pwroff | settim => rfl
    | _ => exact hwrite.elim
  have hflags : leaves (programOf s.cfg i) EngAct.all .sfault = true ∧
      leaves (programOf s.cfg i) EngAct.all .badid = true := by
    cases i with
    | pwron | pwroff | settim => exact ⟨rfl, rfl⟩
    | _ => exact hwrite.elim
  have hsession : (∀ x, i ≠ .pwroff x) → Part.session.Same s t := by
    intro hoff
    refine exec_same h rfl (by decide) ?_ hs
    cases i with
    | pwron | settim => rfl
    | pwroff x => exact absurd rfl (hoff x)
    | _ => exact hwrite.elim
  obtain ⟨hcfg, hbrg, hon, hdisslw, hread, hfree⟩ := exec_fixed h
  simp only [List.forall_mem_cons, List.not_mem_nil, false_implies, implies_true, and_true] at hparts
  obtain ⟨hackdt, hrcv, hrbf, hch0, hch1, hlux, hidr, hlo, hreq, hms, hdelays⟩ := hparts
  exact ⟨hcfg, hbrg, hon, hdisslw, hackdt, hrcv, hrbf, hch0, hch1, hlux, hidr, hlo, hreq, hms, hdelays, hread, hfree,
    fun hb => ⟨exec_ovr h hb, exec_sfault h hb hflags.1, exec_badid h hb hflags.2⟩, hsession⟩

end Sys2Proof.Machine
end

section
/-! The micro-steps that ask nothing of the bus: `DELAY`, `LATCH` and `SESSION` (R176, R179, R222, R279). -/

namespace Sys2Proof.Machine

variable {s : State}

/-- The first turn of a `DELAY` (R279). -/
theorem delayPrimitive_of_request (h : s.seqPhase = .request) (ms : BitVec 10) :
    delayPrimitive ms s = s.requestDelay ms := by
  simp [delayPrimitive, h]

/-- The last turn of a `DELAY`, which finds `dly_done` at 1 (R279). -/
theorem delayPrimitive_of_dlyDone (h : s.seqPhase = .wait) (hd : s.dlyDone = true) (ms : BitVec 10) :
    delayPrimitive ms s = s.endDelay.advance := by
  simp [delayPrimitive, h, hd]

/-- Settles O30: the two turns of `DELAY`; each other step is one transfer and the advance. -/
theorem delayLatchSessionSteps : Obligations.DelayLatchSessionSteps :=
  fun _ => ⟨fun ms h => delayPrimitive_of_request h ms, fun ms h hd => delayPrimitive_of_dlyDone h hd ms,
    rfl, rfl, rfl, rfl, rfl, rfl⟩

end Sys2Proof.Machine
end

section
/-! The converter's branches (R197, R199, R200): when each is selected, and the value in the linear ones. -/

namespace Sys2Proof.Machine

variable {ch0 ch1 : Nat}

/-- The bounds of R197 that select a branch, for `ratio = ch1 / ch0` multiplied out. -/
def LuxBranch.Bounds (ch0 ch1 : Nat) : LuxBranch → Prop
  | .b1 => 100 * ch1 ≤ 50 * ch0
  | .b2 => 50 * ch0 < 100 * ch1 ∧ 100 * ch1 ≤ 61 * ch0
  | .b3 => 61 * ch0 < 100 * ch1 ∧ 100 * ch1 ≤ 80 * ch0
  | .b4 => 80 * ch0 < 100 * ch1 ∧ 100 * ch1 ≤ 130 * ch0
  | .b5 => 130 * ch0 < 100 * ch1

theorem luxBranch_eq_iff {b : LuxBranch} : luxBranch ch0 ch1 = b ↔ b.Bounds ch0 ch1 := by
  unfold luxBranch LuxBranch.Bounds
  cases b <;> grind

/-- Settles O35: the integer tests of R199, in their order, are the bounds of R197. -/
theorem luxBoundariesTakeLowerBranch : Obligations.LuxBoundariesTakeLowerBranch :=
  fun _ _ _ => ⟨luxBranch_eq_iff, luxBranch_eq_iff, luxBranch_eq_iff, luxBranch_eq_iff, luxBranch_eq_iff⟩

theorem luxValue_of_b1 (h : luxBranch ch0 ch1 = .b1) : luxValue ch0 ch1 = luxSearch ch0 ch1 (304 * ch0 / 10000) := by
  simp only [luxValue, h]

theorem luxValue_of_b2 (h : luxBranch ch0 ch1 = .b2) : luxValue ch0 ch1 = (224 * ch0 - 310 * ch1) / 10000 := by
  simp only [luxValue, h]

theorem luxValue_of_b3 (h : luxBranch ch0 ch1 = .b3) : luxValue ch0 ch1 = (128 * ch0 - 153 * ch1) / 10000 := by
  simp only [luxValue, h]

theorem luxValue_of_b4 (h : luxBranch ch0 ch1 = .b4) : luxValue ch0 ch1 = (146 * ch0 - 112 * ch1) / 100000 := by
  simp only [luxValue, h]

theorem luxValue_of_b5 (h : luxBranch ch0 ch1 = .b5) : luxValue ch0 ch1 = 0 := by
  simp only [luxValue, h]

/-- A branch other than B1 starts above ratio 0.50, and there each of them is below 453 (R207). -/
theorem luxValue_lt_of_ne_b1 (h0 : ch0 ≤ 65534) (hb : luxBranch ch0 ch1 ≠ .b1) : luxValue ch0 ch1 < 453 := by
  have hbounds := (luxBranch_eq_iff (ch0 := ch0) (ch1 := ch1)).1 rfl
  cases h : luxBranch ch0 ch1 <;> simp only [h, LuxBranch.Bounds] at hbounds
  case b1 => exact absurd h hb
  case b2 => rw [luxValue_of_b2 h]; omega
  case b3 => rw [luxValue_of_b3 h]; omega
  case b4 => rw [luxValue_of_b4 h]; omega
  case b5 => rw [luxValue_of_b5 h]; omega

end Sys2Proof.Machine
end

section
/-! Branch B1 (R201): the search finds the greatest number that fits, and the numbers that fit are closed downward. -/

namespace Sys2Proof.Machine

variable {ch0 ch1 m n : Nat}

theorem luxFits_iff : luxFits ch0 ch1 n = true ↔
    10000 * n ≤ 304 * ch0 ∧ 620 ^ 5 * ch1 ^ 7 ≤ (304 * ch0 - 10000 * n) ^ 5 * ch0 ^ 2 := by
  simp only [luxFits, Bool.and_eq_true, decide_eq_true_eq]

/-- `A(n)` falls as `n` grows. -/
theorem luxFits_of_le (hmn : m ≤ n) (h : luxFits ch0 ch1 n = true) : luxFits ch0 ch1 m = true := by
  obtain ⟨hn, hpow⟩ := luxFits_iff.1 h
  have hA : 304 * ch0 - 10000 * n ≤ 304 * ch0 - 10000 * m := by omega
  exact luxFits_iff.2 ⟨by omega, hpow.trans (by gcongr)⟩

/-- At ratio 0.50 and below 0 qualifies: `620^5 ≤ 2^7 * 304^5` (R203). -/
theorem luxFits_zero (h : 2 * ch1 ≤ ch0) : luxFits ch0 ch1 0 = true := by
  refine luxFits_iff.2 ⟨Nat.zero_le _, ?_⟩
  have hpow : (2 * ch1) ^ 7 ≤ ch0 ^ 7 := Nat.pow_le_pow_left h 7
  calc 620 ^ 5 * ch1 ^ 7 ≤ 304 ^ 5 * (2 * ch1) ^ 7 := by rw [mul_pow]; omega
    _ ≤ 304 ^ 5 * ch0 ^ 7 := Nat.mul_le_mul_left _ hpow
    _ = (304 * ch0 - 10000 * 0) ^ 5 * ch0 ^ 2 := by rw [Nat.mul_zero, Nat.sub_zero]; ring

theorem luxFits_of_ch1_zero : luxFits ch0 0 n = true ↔ n ≤ 304 * ch0 / 10000 := by
  rw [luxFits_iff, Nat.le_div_iff_mul_le (by decide), mul_comm 10000 n]
  simp

theorem luxSearch_eq_findGreatest (k : Nat) :
    luxSearch ch0 ch1 k = Nat.findGreatest (luxFits ch0 ch1 · = true) k := by
  induction k with
  | zero => rfl
  | succ k ih => rw [luxSearch, Nat.findGreatest_succ, ih]

/-- In branch B1 the lux value is the greatest number that fits (R201), said as a comparison. -/
theorem le_luxValue_iff_luxFits (h : 2 * ch1 ≤ ch0) : n ≤ luxValue ch0 ch1 ↔ luxFits ch0 ch1 n = true := by
  rw [luxValue_of_b1 (luxBranch_eq_iff.2 (by simp only [LuxBranch.Bounds]; omega)), luxSearch_eq_findGreatest]
  constructor
  · intro hn
    exact luxFits_of_le hn (Nat.findGreatest_spec (P := (luxFits ch0 ch1 · = true)) (Nat.zero_le _) (luxFits_zero h))
  · intro hfits
    have hA := (luxFits_iff.1 hfits).1
    exact Nat.le_findGreatest (by omega) hfits

theorem luxFits_luxValue (h : 2 * ch1 ≤ ch0) : luxFits ch0 ch1 (luxValue ch0 ch1) = true :=
  (le_luxValue_iff_luxFits h).1 le_rfl

theorem luxValue_le_of_b1 (h : 2 * ch1 ≤ ch0) : luxValue ch0 ch1 ≤ 304 * ch0 / 10000 := by
  have hA := (luxFits_iff.1 (luxFits_luxValue h)).1
  omega

theorem luxValue_of_ch1_zero : luxValue ch0 0 = 304 * ch0 / 10000 :=
  eq_of_forall_le_iff fun _ => (le_luxValue_iff_luxFits (Nat.zero_le _)).trans luxFits_of_ch1_zero

/-- Settles O36: the qualifying numbers are those that fit, and those are the numbers up to the lux value. -/
theorem luxFirstBranchIsGreatest : Obligations.LuxFirstBranchIsGreatest := by
  intro ch0 ch1 _ hmax h q hq
  have hfits : ∀ n, q n ↔ luxFits ch0 ch1 n = true := fun n => (hq n).trans luxFits_iff.symm
  have hle : ∀ n, q n ↔ n ≤ luxValue ch0 ch1 := fun n => (hfits n).trans (le_luxValue_iff_luxFits h).symm
  refine ⟨(hle _).2 le_rfl, fun n => (hle n).1, (hle 0).2 (Nat.zero_le _),
    fun m n hmn hn => (hle m).2 (hmn.trans ((hle n).1 hn)), luxValue_le_of_b1 h, by omega, ?_⟩
  rintro rfl
  exact luxValue_of_ch1_zero

theorem luxValue_le_1992 (h0 : ch0 ≤ 65534) : luxValue ch0 ch1 ≤ 1992 := by
  by_cases hb : luxBranch ch0 ch1 = .b1
  · have hratio : 100 * ch1 ≤ 50 * ch0 := luxBranch_eq_iff.1 hb
    have hvalue := luxValue_le_of_b1 (ch0 := ch0) (ch1 := ch1) (by omega)
    omega
  · have hvalue := luxValue_lt_of_ne_b1 h0 hb
    omega

end Sys2Proof.Machine
end

section
/-! `LUXCONV` (R195, R202) outcome by outcome, and `CONV` (R194). -/

namespace Sys2Proof.Machine

variable {f : Bool} {ch0 ch1 : Word}

theorem luxconv_of_zero_fault (b : Word) : luxconv true 0#16 b = (0, true) := by
  simp [luxconv]

theorem luxconv_of_saturated (h : ch0 = saturated ∨ ch1 = saturated) : luxconv f ch0 ch1 = (0, true) := by
  simp [luxconv, h]

theorem luxconv_of_zero (h : ch1 ≠ saturated) : luxconv false 0#16 ch1 = (0, false) := by
  simp [luxconv, h, show (0#16 : Word) ≠ saturated by decide]

theorem luxconv_of_admitted (hz : ch0 ≠ 0#16) (h0 : ch0 ≠ saturated) (h1 : ch1 ≠ saturated) :
    luxconv f ch0 ch1 = (luxValue ch0.toNat ch1.toNat, false) := by
  simp [luxconv, hz, h0, h1]

/-- The four outcomes of `LUXCONV`, each with what selects it. -/
theorem luxconv_cases (f : Bool) (ch0 ch1 : Word) :
    (ch0 = 0#16 ∧ f = true ∧ luxconv f ch0 ch1 = (0, true)) ∨
    ((ch0 = saturated ∨ ch1 = saturated) ∧ luxconv f ch0 ch1 = (0, true)) ∨
    (ch0 = 0#16 ∧ f = false ∧ ch1 ≠ saturated ∧ luxconv f ch0 ch1 = (0, false)) ∨
    (ch0 ≠ 0#16 ∧ ch0 ≠ saturated ∧ ch1 ≠ saturated ∧
      luxconv f ch0 ch1 = (luxValue ch0.toNat ch1.toNat, false)) := by
  by_cases hsat : ch0 = saturated ∨ ch1 = saturated
  · exact .inr (.inl ⟨hsat, luxconv_of_saturated hsat⟩)
  obtain ⟨h0, h1⟩ := not_or.1 hsat
  by_cases hz : ch0 = 0#16
  · subst hz
    cases f with
    | true => exact .inl ⟨rfl, rfl, luxconv_of_zero_fault ch1⟩
    | false => exact .inr (.inr (.inl ⟨rfl, rfl, h1, luxconv_of_zero h1⟩))
  · exact .inr (.inr (.inr ⟨hz, h0, h1, luxconv_of_admitted hz h0 h1⟩))

/-- Settles O37: read off the outcomes of `LUXCONV`. -/
theorem luxFaultLaw : Obligations.LuxFaultLaw := by
  intro f ch0 ch1
  change (_ ↔ _ ∨ ch0 = saturated ∨ ch1 = saturated) ∧ _
  obtain ⟨hz, hf, hconv⟩ | ⟨hsat, hconv⟩ | ⟨hz, hf, h1, hconv⟩ | ⟨hz, h0, h1, hconv⟩ := luxconv_cases f ch0 ch1 <;>
    rw [hconv]
  · simp [hz, hf]
  · simp [hsat]
  · simp [hz, hf, h1, show (0#16 : Word) ≠ saturated by decide]
  · simp [hz, h0, h1]

theorem toNat_le_of_ne_saturated {w : Word} (h : w ≠ saturated) : w.toNat ≤ 65534 := by
  have hne : w.toNat ≠ 65535 := fun hw => h (BitVec.eq_of_toNat_eq hw)
  have := w.isLt
  omega

theorem luxconv_le_1992 (f : Bool) (ch0 ch1 : Word) : (luxconv f ch0 ch1).1 ≤ 1992 := by
  obtain ⟨-, -, hconv⟩ | ⟨-, hconv⟩ | ⟨-, -, -, hconv⟩ | ⟨-, h0, -, hconv⟩ := luxconv_cases f ch0 ch1 <;> rw [hconv]
  case inr.inr.inr => exact luxValue_le_1992 (toNat_le_of_ne_saturated h0)
  all_goals exact Nat.zero_le _

theorem luxconv_lt_of_ne_b1 (hz : ch0 ≠ 0#16) (hb : luxBranch ch0.toNat ch1.toNat ≠ .b1) :
    (luxconv f ch0 ch1).1 < 453 := by
  by_cases hsat : ch0 = saturated ∨ ch1 = saturated
  · rw [luxconv_of_saturated hsat]
    decide
  obtain ⟨h0, h1⟩ := not_or.1 hsat
  rw [luxconv_of_admitted hz h0 h1]
  exact luxValue_lt_of_ne_b1 (toNat_le_of_ne_saturated h0) hb

@[simp] theorem State.conv_lux (s : State) :
    s.conv.lux = BitVec.ofNat 16 (luxconv s.cfg.ch0ZeroIsFault s.ch0 s.ch1).1 := by
  unfold State.conv
  dsimp only
  split <;> rfl

/-- Settles O38: 1992 bounds branch B1 and 453 the others, so the value fits the 16 bits of `LUX`. -/
theorem luxIsAtMost1992 : Obligations.LuxIsAtMost1992 := by
  refine ⟨luxconv_le_1992, ?attained, fun f ch0 ch1 => luxconv_lt_of_ne_b1, ?stored⟩
  case attained =>
    intro f
    rw [luxconv_of_admitted (by decide) (by decide) (by decide), BitVec.toNat_ofNat, BitVec.toNat_ofNat]
    rw [luxValue_of_ch1_zero]
  case stored =>
    intro s
    have hle := luxconv_le_1992 s.cfg.ch0ZeroIsFault s.ch0 s.ch1
    rw [microTurn, State.advance_lux, State.conv_lux, BitVec.toNat_ofNat, Nat.mod_eq_of_lt (by omega)]

end Sys2Proof.Machine
end

section
/-! The real formula (R196, R198) and the integers that stand for it. -/

namespace Sys2Proof.Machine

variable {ch0 ch1 n : Nat}

/-- A bound on the real ratio, multiplied out (R199). -/
theorem ratio_le_iff (h : 0 < ch0) (k : Nat) : (ch1 : ℝ) / ch0 ≤ k / 100 ↔ 100 * ch1 ≤ k * ch0 := by
  have h0 : (0 : ℝ) < ch0 := Nat.cast_pos.2 h
  rw [div_le_div_iff₀ h0 (by norm_num), mul_comm]
  exact_mod_cast Iff.rfl

theorem lt_ratio_iff (h : 0 < ch0) (k : Nat) : (k : ℝ) / 100 < (ch1 : ℝ) / ch0 ↔ k * ch0 < 100 * ch1 := by
  rw [← not_le, ratio_le_iff h, not_le]

/-- The clamp at 0 is the truncated subtraction, and the floor of a quotient the integer division (R200). -/
theorem floor_clamped_eq_div {x : ℝ} {p q d : Nat} (hx : x = ((p : ℝ) - q) / d) : ⌊max 0 x⌋₊ = (p - q) / d := by
  have hd : (0 : ℝ) ≤ d := Nat.cast_nonneg d
  rw [hx, ← Nat.floor_div_eq_div (K := ℝ)]
  congr 1
  obtain hqp | hpq := le_total q p
  · rw [Nat.cast_sub hqp]
    exact max_eq_right (div_nonneg (sub_nonneg.2 (Nat.cast_le.2 hqp)) hd)
  · rw [Nat.sub_eq_zero_of_le hpq, Nat.cast_zero, zero_div]
    exact max_eq_left (div_nonpos_of_nonpos_of_nonneg (sub_nonpos.2 (Nat.cast_le.2 hpq)) hd)

/-- The fifth power clears the exponent 7/5. -/
theorem mul_ratio_rpow_pow (h : 0 < ch0) :
    ((ch0 : ℝ) * ((ch1 : ℝ) / ch0) ^ (14 / 10 : ℝ)) ^ 5 * (ch0 : ℝ) ^ 2 = (ch1 : ℝ) ^ 7 := by
  have h0 : (ch0 : ℝ) ≠ 0 := Nat.cast_ne_zero.2 h.ne'
  have hratio : (0 : ℝ) ≤ (ch1 : ℝ) / ch0 := by positivity
  have hpow : (((ch1 : ℝ) / ch0) ^ (14 / 10 : ℝ)) ^ 5 = ((ch1 : ℝ) / ch0) ^ 7 := by
    rw [← Real.rpow_mul_natCast hratio, ← Real.rpow_natCast]
    norm_num
  rw [mul_pow, hpow, div_pow]
  field_simp

/-- R201, derived from R196: `n` is at most the real value of branch B1 exactly when `n` fits. -/
theorem cast_le_firstBranch_iff (h : 0 < ch0) :
    (n : ℝ) ≤ 304 / 10000 * ch0 - 62 / 1000 * ch0 * ((ch1 : ℝ) / ch0) ^ (14 / 10 : ℝ) ↔ luxFits ch0 ch1 n = true := by
  have hpow := mul_ratio_rpow_pow (ch1 := ch1) h
  have hp : 0 ≤ (ch0 : ℝ) * ((ch1 : ℝ) / ch0) ^ (14 / 10 : ℝ) := by positivity
  rw [mul_assoc (62 / 1000 : ℝ)]
  generalize (ch0 : ℝ) * ((ch1 : ℝ) / ch0) ^ (14 / 10 : ℝ) = p at hpow hp ⊢
  have hscale : (n : ℝ) ≤ 304 / 10000 * ch0 - 62 / 1000 * p ↔ 620 * p ≤ 304 * ch0 - 10000 * n := by
    constructor <;> intro _ <;> linarith
  rw [hscale, luxFits_iff]
  obtain hA | hA := le_or_gt (10000 * n) (304 * ch0)
  · have h2 : (0 : ℝ) < (ch0 : ℝ) ^ 2 := by positivity
    have hcast : ((304 * ch0 - 10000 * n : Nat) : ℝ) = 304 * ch0 - 10000 * n := by push_cast [Nat.cast_sub hA]; rfl
    rw [← hcast, ← pow_le_pow_iff_left₀ (by positivity) (Nat.cast_nonneg _) (by decide : 5 ≠ 0),
      ← mul_le_mul_iff_left₀ h2, mul_pow, mul_assoc, hpow, and_iff_right hA]
    exact_mod_cast Iff.rfl
  · have hneg : (304 : ℝ) * ch0 < 10000 * n := by exact_mod_cast hA
    exact iff_of_false (by linarith) (fun hfits => absurd hfits.1 (not_le.2 hA))

theorem luxValue_eq_floor_firstBranch (h : 0 < ch0) (hb : 2 * ch1 ≤ ch0) :
    luxValue ch0 ch1 = ⌊max 0 (304 / 10000 * ch0 - 62 / 1000 * ch0 * ((ch1 : ℝ) / ch0) ^ (14 / 10 : ℝ))⌋₊ := by
  have hnonneg := (cast_le_firstBranch_iff h).2 (luxFits_zero hb)
  rw [Nat.cast_zero] at hnonneg
  rw [max_eq_right hnonneg]
  refine eq_of_forall_le_iff fun n => ?_
  rw [le_luxValue_iff_luxFits hb, Nat.le_floor_iff hnonneg, cast_le_firstBranch_iff h]

theorem luxValue_eq_floor_secondBranch (hb : luxBranch ch0 ch1 = .b2) :
    luxValue ch0 ch1 = ⌊max 0 (224 / 10000 * ch0 - 31 / 1000 * ch1 : ℝ)⌋₊ :=
  (luxValue_of_b2 hb).trans (floor_clamped_eq_div (by push_cast; ring)).symm

theorem luxValue_eq_floor_thirdBranch (hb : luxBranch ch0 ch1 = .b3) :
    luxValue ch0 ch1 = ⌊max 0 (128 / 10000 * ch0 - 153 / 10000 * ch1 : ℝ)⌋₊ :=
  (luxValue_of_b3 hb).trans (floor_clamped_eq_div (by push_cast; ring)).symm

theorem luxValue_eq_floor_fourthBranch (hb : luxBranch ch0 ch1 = .b4) :
    luxValue ch0 ch1 = ⌊max 0 (146 / 100000 * ch0 - 112 / 100000 * ch1 : ℝ)⌋₊ :=
  (luxValue_of_b4 hb).trans (floor_clamped_eq_div (by push_cast; ring)).symm

/-- Settles O34: the outcomes of `LUXCONV`, and in the last of them the branch the real ratio selects. -/
theorem luxIsTruncatedRealFormula : Obligations.LuxIsTruncatedRealFormula := by
  refine ⟨luxconv_of_zero_fault, fun f a b => luxconv_of_saturated, fun b => luxconv_of_zero, ?_⟩
  rintro f a b hz h0 h1 _ _ _ rfl rfl rfl
  have hpos : 0 < a.toNat := Nat.pos_of_ne_zero fun h => hz (BitVec.eq_of_toNat_eq h)
  rw [luxconv_of_admitted hz h0 h1]
  have hle := ratio_le_iff (ch1 := b.toNat) hpos
  have hlt := lt_ratio_iff (ch1 := b.toNat) hpos
  refine ⟨rfl, fun hr => ?b1, fun hl hr => ?b2, fun hl hr => ?b3, fun hl hr => ?b4, fun hl => ?b5⟩
  case b1 =>
    have hb := (hle 50).1 (by exact_mod_cast hr)
    exact luxValue_eq_floor_firstBranch hpos (by omega)
  case b2 =>
    exact luxValue_eq_floor_secondBranch
      (luxBranch_eq_iff.2 ⟨(hlt 50).1 (by exact_mod_cast hl), (hle 61).1 (by exact_mod_cast hr)⟩)
  case b3 =>
    exact luxValue_eq_floor_thirdBranch
      (luxBranch_eq_iff.2 ⟨(hlt 61).1 (by exact_mod_cast hl), (hle 80).1 (by exact_mod_cast hr)⟩)
  case b4 =>
    exact luxValue_eq_floor_fourthBranch
      (luxBranch_eq_iff.2 ⟨(hlt 80).1 (by exact_mod_cast hl), (hle 130).1 (by exact_mod_cast hr)⟩)
  case b5 => exact luxValue_of_b5 (luxBranch_eq_iff.2 ((hlt 130).1 (by exact_mod_cast hl)))

end Sys2Proof.Machine
end

section
/-! Completed `INIT` (R222, R223, R227, R228): its micro-program is three phases, each one register transaction with the
session steps and the delay beside it, and `DONE` with the ID. -/

namespace Sys2Proof.Machine

variable {prog : List MicroStep} {s : State}

/-- A session step, granted (R224). -/
theorem runTurns_session (rest : List Turn) (h : s.Between) {m : MicroStep} (hm : prog[s.seqPc.toNat]? = some m)
    (hw : stepTurns m [] = [.sequencer]) (hc : m.completions = 0) {x : Session} {idwarn : Bool}
    (hx : microTurn m (s.nextTurn rest) = ((s.nextTurn rest).setSession x idwarn).advance) (xs : List Answer) :
    runTurns prog (stepTurns m xs ++ rest) s = runTurns prog rest
      { s with
        sstat := { s.sstat with session := x, idwarn := idwarn }
        seqPc := s.seqPc + 1#5
        diagPort := none
        schedule := rest } := by
  rw [runTurns_unwaited rest h hm hw hc, hx, State.advance, ← h.phase]
  rfl

/-- Steps 0 to 6 of `INIT` (R222): power on, and the time to settle. -/
def initPowerUp (c : Config) : List MicroStep :=
  [.sessionClear .poweringUp] ++ memWrite c regControl powerOnValue ++ [.delay delayPowerupMs]

/-- Steps 7 to 15 of `INIT` (R222): the ID, its check, and the session it decides. -/
def initIdentify (c : Config) : List MicroStep :=
  memReadOne c regId .idr ++ [.checkId, .sessionFromId]

/-- Steps 16 to 22 of `INIT` (R222): the timing register, the integration time, and the session `Ready`. -/
def initTiming (c : Config) : List MicroStep :=
  memWrite c regTiming c.timingDefault ++ [.delay delayIntegMs, .sessionReady]

theorem initProgram_eq_phases (c : Config) :
    initProgram c = initPowerUp c ++ (initIdentify c ++ (initTiming c ++ [.done .idr])) := rfl

variable {c : Config} (rest : List Turn)

/-- The power-up phase of `INIT`, granted. -/
theorem runTurns_initPowerUp (h : s.Between) (hpc : s.seqPc = 0#5) (x0 x1 x2 x3 x4 : Answer) :
    runTurns (initProgram c) (grant (initPowerUp c) [x0, x1, x2, x3, x4] ++ rest) s = runTurns (initProgram c) rest
      { s with
        i2ctrn := powerOnValue
        i2cstat := { s.i2cstat with ackstat := x3.ack }
        trace := s.trace ++ writeEvents c regControl powerOnValue x1.ack x2.ack x3.ack
        divisors := s.divisors ++ List.replicate 5 s.i2cbrg
        sstat :=
          { s.sstat with
            owned := false
            noack := s.sstat.noack || anyNack [x1.ack, x2.ack, x3.ack]
            session := .poweringUp
            idwarn := false }
        diags := s.diags ++ noackDiags [x1.ack, x2.ack, x3.ack]
        dlyMs := delayPowerupMs
        dlyReq := false
        dlyDone := false
        delays := s.delays ++ [delayPowerupMs]
        seqPc := 7#5
        diagPort := none
        schedule := rest } := by
  have hgrant : grant (initPowerUp c) [x0, x1, x2, x3, x4] =
      stepTurns (.sessionClear .poweringUp) [] ++
        (grant (memWrite c regControl powerOnValue) [x0, x1, x2, x3, x4] ++ stepTurns (.delay delayPowerupMs) []) := rfl
  rw [hgrant, List.append_assoc, List.append_assoc, runTurns_session (hw := rfl) (hc := rfl) (hx := rfl),
    runTurns_memWrite, runTurns_delay]
  -- Each lemma asks that its steps begin between micro-steps, and that the program has them there.
  any_goals exact h.of_eq rfl rfl rfl rfl
  all_goals
    rw [hpc]
    rfl

/-- The identification phase of `INIT`, granted: `BADID` and `IDWARN` tell of an unexpected ID (R181, R223). -/
theorem runTurns_initIdentify (h : s.Between) (hpc : s.seqPc = 7#5) (y0 y1 y2 y3 y4 y5 y6 y7 : Answer) :
    runTurns (initProgram c) (grant (initIdentify c) [y0, y1, y2, y3, y4, y5, y6, y7] ++ rest) s =
      runTurns (initProgram c) rest
      { s with
        i2ctrn := addressRead c
        i2crcv := y5.byte
        idr := y5.byte
        i2cstat := { s.i2cstat with ackstat := y4.ack, rbf := false }
        i2ccon := { s.i2ccon with ackdt := 1#1 }
        trace := s.trace ++ readOneEvents c regId y1.ack y2.ack y4.ack y5.byte
        divisors := s.divisors ++ List.replicate 8 s.i2cbrg
        sstat :=
          { s.sstat with
            owned := false
            noack := s.sstat.noack || anyNack [y1.ack, y2.ack, y4.ack]
            badid := s.sstat.badid || !idExpected y5.byte
            session := sessionFromBadid (s.sstat.badid || !idExpected y5.byte)
            idwarn := s.sstat.badid || !idExpected y5.byte }
        diags := s.diags ++ noackDiags [y1.ack, y2.ack, y4.ack] ++ if idExpected y5.byte then [] else [.badid]
        seqPc := 16#5
        seqPhase := .request
        diagPort := none
        schedule := rest } := by
  have hgrant : grant (initIdentify c) [y0, y1, y2, y3, y4, y5, y6, y7] =
      grant (memReadOne c regId .idr) [y0, y1, y2, y3, y4, y5, y6, y7] ++
        (stepTurns .checkId [] ++ stepTurns .sessionFromId []) := rfl
  rw [hgrant, List.append_assoc, List.append_assoc, runTurns_memReadOne, runTurns_checkId,
    runTurns_session (m := .sessionFromId) (hw := rfl) (hc := rfl) (hx := rfl)]
  any_goals exact h.of_eq rfl rfl rfl rfl
  any_goals exact h.of_eq rfl rfl h.phase.symm rfl
  all_goals
    rw [hpc]
    rfl

/-- The timing phase of `INIT`, granted: the session ends `Ready` and `IDWARN` stays (R223). -/
theorem runTurns_initTiming (h : s.Between) (hpc : s.seqPc = 16#5) (z0 z1 z2 z3 z4 : Answer) :
    runTurns (initProgram c) (grant (initTiming c) [z0, z1, z2, z3, z4] ++ rest) s = runTurns (initProgram c) rest
      { s with
        i2ctrn := c.timingDefault
        i2cstat := { s.i2cstat with ackstat := z3.ack }
        trace := s.trace ++ writeEvents c regTiming c.timingDefault z1.ack z2.ack z3.ack
        divisors := s.divisors ++ List.replicate 5 s.i2cbrg
        sstat :=
          { s.sstat with
            owned := false
            noack := s.sstat.noack || anyNack [z1.ack, z2.ack, z3.ack]
            session := .ready }
        diags := s.diags ++ noackDiags [z1.ack, z2.ack, z3.ack]
        dlyMs := delayIntegMs
        dlyReq := false
        dlyDone := false
        delays := s.delays ++ [delayIntegMs]
        seqPc := 23#5
        diagPort := none
        schedule := rest } := by
  have hgrant : grant (initTiming c) [z0, z1, z2, z3, z4] =
      grant (memWrite c regTiming c.timingDefault) [z0, z1, z2, z3, z4] ++
        (stepTurns (.delay delayIntegMs) [] ++ stepTurns .sessionReady []) := rfl
  rw [hgrant, List.append_assoc, List.append_assoc, runTurns_memWrite, runTurns_delay,
    runTurns_session (m := .sessionReady) (hw := rfl) (hc := rfl) (hx := rfl)]
  any_goals exact h.of_eq rfl rfl rfl rfl
  all_goals
    rw [hpc]
    rfl

/-- Settles O25: the three phases of `INIT`, then `DONE` with the ID. -/
theorem initCompletes : Obligations.InitCompletes := by
  intro s operand x0 x1 x2 x3 x4 y0 y1 y2 y3 y4 y5 y6 y7 z0 z1 z2 z3 z4 rest hr ho hs
  have hv : violates (.init operand) s = false := violates_eq_false_iff.2 ho
  have hb := State.between_of_accepted hr (.init operand)
  have hgrant : grant (initProgram s.cfg)
      [x0, x1, x2, x3, x4, y0, y1, y2, y3, y4, y5, y6, y7, z0, z1, z2, z3, z4] =
      grant (initPowerUp s.cfg) [x0, x1, x2, x3, x4] ++
        (grant (initIdentify s.cfg) [y0, y1, y2, y3, y4, y5, y6, y7] ++
          (grant (initTiming s.cfg) [z0, z1, z2, z3, z4] ++ grant [.done .idr] [])) := by
    rw [initProgram_eq_phases, grant_append, grant_append, grant_append]
    rfl
  have hnack : anyNack [x1.ack, x2.ack, x3.ack, y1.ack, y2.ack, y4.ack, z1.ack, z2.ack, z3.ack] =
      (anyNack [x1.ack, x2.ack, x3.ack] || anyNack [y1.ack, y2.ack, y4.ack] || anyNack [z1.ack, z2.ack, z3.ack]) := by
    rw [← anyNack_append, ← anyNack_append]
    rfl
  have hdiags : noackDiags [x1.ack, x2.ack, x3.ack, y1.ack, y2.ack, y4.ack] =
      noackDiags [x1.ack, x2.ack, x3.ack] ++ noackDiags [y1.ack, y2.ack, y4.ack] := noackDiags_append [_, _, _] _
  have hdelays : s.delays ++ [200#10, 500#10] = s.delays ++ [delayPowerupMs] ++ [delayIntegMs] :=
    (List.append_assoc s.delays [_] [_]).symm
  rw [exec_of_ready hr hv, programOf, hs, hgrant, List.append_assoc, List.append_assoc, List.append_assoc,
    runTurns_initPowerUp _ hb rfl, runTurns_initIdentify, runTurns_initTiming, runTurns_done]
  · rw [State.i2cstat_of_ready hr, hnack, hdiags, hdelays, bne_and_bne_eq_not_idExpected, ite_eq_ite_idExpected,
      State.completed_eq_withOwned ho, State.completed, List.length_append, List.length_append, List.replicate_add,
      List.replicate_add]
    simp only [← List.append_assoc]
    rfl
  -- Each lemma asks that its phase begins between micro-steps, and at its place in the program.
  any_goals exact hb.of_eq rfl rfl rfl rfl
  all_goals rfl

end Sys2Proof.Machine
end

section
/-! The statements of spec/44_wire_level.md: the scan finds the events of a waveform again (R248), the lines rest as the
last event leaves them (R240 to R244), and neither a longer half clock nor a stretched one adds or loses an event (R249,
R250). -/

namespace Sys2Proof.Machine

/-! ## One sample -/

@[simp] theorem driven_scl (d : Driver) (scl sda : Bool) : (driven d scl sda).scl = scl := by
  cases d <;> exact Bool.and_true scl

@[simp] theorem driven_sda (d : Driver) (scl sda : Bool) : (driven d scl sda).sda = sda := by
  cases d
  · exact Bool.and_true sda
  · exact Bool.true_and sda

@[simp] theorem driven_driver (d : Driver) (scl sda : Bool) : (driven d scl sda).driver = d := by
  cases d <;> rfl

@[simp] theorem Sample.clockHeld_scl (x : Sample) : x.clockHeld.scl = false := Bool.and_false _

@[simp] theorem Sample.clockHeld_sda (x : Sample) : x.clockHeld.sda = x.sda := rfl

/-- The scan remembers the level of `SCL` in the last sample. -/
@[simp] theorem scanSample_scl (st : Scan) (x : Sample) : (scanSample st x).scl = x.scl := by
  unfold scanSample
  dsimp only
  split_ifs <;> rfl

/-- The scan remembers the level of `SDA` in the last sample. -/
@[simp] theorem scanSample_sda (st : Scan) (x : Sample) : (scanSample st x).sda = x.sda := by
  unfold scanSample
  dsimp only
  split_ifs <;> rfl

/-- While `SCL` is low, nothing but the levels is noted (R244). -/
theorem scanSample_of_low {x : Sample} (h : x.scl = false) (st : Scan) :
    scanSample st x = { st with scl := false, sda := x.sda } := by
  simp [scanSample, h]

/-- With both levels as they were there is no edge, so nothing is noted. -/
theorem scanSample_of_level {st : Scan} {x : Sample} (hc : st.scl = x.scl) (hd : st.sda = x.sda) :
    scanSample st x = st := by
  obtain ⟨scl, sda, owned, bits, events⟩ := st
  obtain rfl : scl = x.scl := hc
  obtain rfl : sda = x.sda := hd
  cases hx : x.scl <;> simp [scanSample, hx]

/-- A rising edge of `SCL` clocks in the level of `SDA`, whatever it was before. -/
theorem scanSample_of_rise {st : Scan} {x : Sample} (hst : st.scl = false) (hx : x.scl = true) (sda : Bool) :
    scanSample { st with sda := sda } x = scanSample st x := by
  simp [scanSample, hst, hx]

/-! ## Longer samples and stretched clocks (R249, R250) -/

/-- A sample that lasts is seen once. -/
theorem foldl_scanSample_replicate {n : Nat} (hn : 0 < n) (st : Scan) (x : Sample) :
    (List.replicate n x).foldl scanSample st = scanSample st x := by
  induction n, hn using Nat.le_induction with
  | base => rfl
  | succ n _ ih =>
    rw [List.replicate_succ', List.foldl_concat, ih]
    exact scanSample_of_level (scanSample_scl st x) (scanSample_sda st x)

/-- So is every sample of a waveform. -/
theorem foldl_scanSample_flatMap_replicate {n : Nat} (hn : 0 < n) (st : Scan) (w : List Sample) :
    (w.flatMap (List.replicate n)).foldl scanSample st = w.foldl scanSample st := by
  rw [List.foldl_flatMap]
  simp_rw [foldl_scanSample_replicate hn]

/-- A target that holds `SCL` low before a rising edge adds no edge: the levels it shows are those of `SCL` low, and the
bit is clocked in when it lets go. -/
theorem scanSample_of_clockHeld {st : Scan} {x : Sample} (hst : st.scl = false) (hx : x.scl = true) (wait : Nat) :
    scanSample ((List.replicate wait x.clockHeld).foldl scanSample st) x = scanSample st x := by
  obtain rfl | hwait := Nat.eq_zero_or_pos wait
  · rfl
  · have hheld : scanSample st x.clockHeld = { st with sda := x.sda } := by
      rw [scanSample_of_low x.clockHeld_scl, Sample.clockHeld_sda, ← hst]
    rw [foldl_scanSample_replicate hwait, hheld, scanSample_of_rise hst hx]

/-- A stretched waveform leaves the scan where the waveform leaves it. -/
theorem foldl_scanSample_stretched (w : List (Sample × Nat × Nat)) (st : Scan) :
    (stretched st.scl w).foldl scanSample st = (w.map Prod.fst).foldl scanSample st := by
  induction w generalizing st with
  | nil => rfl
  | cons p w ih =>
    obtain ⟨x, hold, wait⟩ := p
    have hsample : (List.replicate (hold + 1) x).foldl scanSample
        ((if !st.scl && x.scl then List.replicate wait x.clockHeld else []).foldl scanSample st) = scanSample st x := by
      rw [foldl_scanSample_replicate hold.succ_pos]
      split
      case isTrue hrise =>
        have ⟨hst, hx⟩ : st.scl = false ∧ x.scl = true := by simpa using hrise
        exact scanSample_of_clockHeld hst hx wait
      case isFalse => rfl
    rw [stretched, List.foldl_append, List.foldl_append, hsample, List.map_cons, List.foldl_cons, ← ih,
      scanSample_scl]

/-! ## Around the events of a trace -/

/-- Where a trace has ended `SCL` is low, if anything follows the last event at all (R244). -/
theorem scl_of_mem_traceEnd {tr : List BusEvent} {x : Sample} (hx : x ∈ traceEnd tr) : x.scl = false := by
  unfold traceEnd at hx
  split at hx
  case h_1 e _ =>
    cases e
    case start | restart | stop => cases hx
    case tx | rxd | mack =>
      obtain rfl := List.mem_singleton.1 hx
      exact driven_scl ..
  case h_2 => cases hx

/-- Samples with `SCL` low show no event. -/
theorem foldl_scanSample_events_of_low {w : List Sample} (hw : ∀ x ∈ w, x.scl = false) (st : Scan) :
    (w.foldl scanSample st).events = st.events := by
  induction w generalizing st with
  | nil => rfl
  | cons x w ih =>
    obtain ⟨hx, hw⟩ := List.forall_mem_cons.1 hw
    rw [List.foldl_cons, ih hw, scanSample_of_low hx]

/-- What precedes a trace on a free bus, and what follows it, shows no event. -/
theorem scan_released_append_traceEnd (w : List Sample) (tr : List BusEvent) :
    scan (Sample.released :: w ++ traceEnd tr) = (w.foldl scanSample Scan.idle).events := by
  have hfree : scanSample Scan.idle Sample.released = Scan.idle := rfl
  rw [scan, List.foldl_append, foldl_scanSample_events_of_low fun _ => scl_of_mem_traceEnd, List.foldl_cons, hfree]

/-- Half clocks of any positive length leave the scan where half clocks of one sample leave it. -/
theorem foldl_scanSample_atRate {tr : List BusEvent} {ds : List Word} {half : Word → Nat}
    (hlen : ds.length = tr.length) (hpos : ∀ d ∈ ds, 0 < half d) (st : Scan) :
    ((tr.zip ds).flatMap fun x => (eventWave x.1).flatMap (List.replicate (half x.2))).foldl scanSample st =
      (tr.flatMap eventWave).foldl scanSample st := by
  induction tr generalizing ds st with
  | nil => rfl
  | cons e tr ih =>
    obtain ⟨d, ds, rfl⟩ := List.exists_cons_of_length_eq_add_one hlen
    obtain ⟨hd, hds⟩ := List.forall_mem_cons.1 hpos
    rw [List.zip_cons_cons, List.flatMap_cons, List.flatMap_cons, List.foldl_append, List.foldl_append,
      foldl_scanSample_flatMap_replicate hd, ih (Nat.succ.inj hlen) hds]

/-- Settles O60: a held sample is seen once, a held `SCL` delays its rising edge only, and a longer half clock is a held
sample. -/
theorem stretchingDoesNotChangeTheEvents : Obligations.StretchingDoesNotChangeTheEvents := by
  refine ⟨fun w => congrArg Scan.events (foldl_scanSample_stretched w Scan.idle), fun s half hlen hpos => ?_⟩
  rw [State.waveformAtRate, scan_released_append_traceEnd, foldl_scanSample_atRate hlen hpos, State.waveform, waveform,
    scan_released_append_traceEnd]

/-! ## Bits and bytes (R244 to R248) -/

/-- The bits of a byte in the order of the wire, the most significant first, with their driver. -/
def byteBits (d : Driver) (b : Byte) : List (Bool × Driver) := [7, 6, 5, 4, 3, 2, 1, 0].map fun i => (b.getLsbD i, d)

/-- A bit before the ninth is kept. -/
theorem foldl_bitWave {st : Scan} (h : st.bits.length < 8) (d : Driver) (v : Bool) :
    (bitWave d v).foldl scanSample st = { st with scl := true, sda := v, bits := st.bits ++ [(v, d)] } := by
  have hnot : st.bits.length ≠ 8 := h.ne
  simp [bitWave, scanSample, hnot]

/-- The ninth bit ends a byte with its acknowledgment. -/
theorem foldl_bitWave_ninth {st : Scan} (h : st.bits.length = 8) (d : Driver) (v : Bool) :
    (bitWave d v).foldl scanSample st =
      { st with scl := true, sda := v, bits := [], events := st.events ++ byteEvents (st.bits ++ [(v, d)]) } := by
  simp [bitWave, scanSample, h]

/-- Eight bits are kept in the order of the wire. -/
theorem foldl_byteWave {st : Scan} (h : st.bits = []) (d : Driver) (b : Byte) :
    (byteWave d b).foldl scanSample st = { st with scl := true, sda := b.getLsbD 0, bits := byteBits d b } := by
  simp [byteWave, byteBits, List.foldl_append, foldl_bitWave, h]

/-- Reading the eight bits back gives the byte. -/
theorem byteOfBits_byteBits (d : Driver) (b : Byte) : byteOfBits ((byteBits d b).map Prod.fst) = b := by
  revert b
  cases d <;> decide

/-- An acknowledgment bit is its level on the wire (R19). -/
theorem ofBool_beq_one_eq_self (a : Bit) : BitVec.ofBool (a == 1#1) = a := by
  revert a
  decide

/-- Eight bits of the master and an acknowledgment are a `TX` (R245). -/
theorem byteEvents_of_master (b : Byte) (a : Bit) (d : Driver) :
    byteEvents (byteBits .master b ++ [(a == 1#1, d)]) = [.tx b a] :=
  calc
    byteEvents (byteBits .master b ++ [(a == 1#1, d)]) =
        [.tx (byteOfBits ((byteBits .master b).map Prod.fst)) (BitVec.ofBool (a == 1#1 || false))] := rfl
    _ = _ := by rw [byteOfBits_byteBits, Bool.or_false, ofBool_beq_one_eq_self]

/-- Eight bits of the target and an acknowledgment are an `RXD` and its `MACK` (R246, R247). -/
theorem byteEvents_of_target (b : Byte) (n : Bit) (d : Driver) :
    byteEvents (byteBits .target b ++ [(n == 1#1, d)]) = [.rxd b, .mack n] :=
  calc
    byteEvents (byteBits .target b ++ [(n == 1#1, d)]) =
        [.rxd (byteOfBits ((byteBits .target b).map Prod.fst)), .mack (BitVec.ofBool (n == 1#1 || false))] := rfl
    _ = _ := by rw [byteOfBits_byteBits, Bool.or_false, ofBool_beq_one_eq_self]

/-! ## The scan follows the trace (R248) -/

/-- The scan of a trace's events, by where the trace stands: all events are found, but a last `RXD` without its `MACK`
is still the eight bits clocked in. Inside a transaction any levels do, as the closing edge is the next event's. -/
inductive Scan.Follows : BusPos → List BusEvent → Scan → Prop
  | free (tr : List BusEvent) :
    Follows .free tr { scl := true, sda := true, owned := false, bits := [], events := tr }
  | held (tr : List BusEvent) (scl sda : Bool) :
    Follows .held tr { scl := scl, sda := sda, owned := true, bits := [], events := tr }
  | byteIn (tr : List BusEvent) (b : Byte) (scl sda : Bool) :
    Follows .byteIn (tr ++ [.rxd b])
      { scl := scl, sda := sda, owned := true, bits := byteBits .target b, events := tr }

/-- Each event of the language of R93 is followed, from whatever levels the one before has left. -/
theorem Scan.Follows.concat {p q : BusPos} {tr : List BusEvent} {st : Scan} (h : Follows p tr st) {e : BusEvent}
    (he : p.next e = some q) : Follows q (tr ++ [e]) ((eventWave e).foldl scanSample st) := by
  cases h with
  | free =>
    cases e <;> cases he
    case start.refl => exact .held ..
  | held tr scl sda =>
    cases e <;> cases he
    case restart.refl => cases scl <;> exact .held ..
    case stop.refl => cases scl <;> exact .free _
    case tx.refl b a =>
      rw [eventWave, List.foldl_append, foldl_byteWave rfl, foldl_bitWave_ninth rfl, byteEvents_of_master]
      exact .held ..
    case rxd.refl b =>
      rw [eventWave, foldl_byteWave rfl]
      exact .byteIn ..
  | byteIn tr b scl sda =>
    cases e <;> cases he
    case mack.refl n =>
      rw [eventWave, foldl_bitWave_ninth rfl, byteEvents_of_target, List.append_assoc]
      exact .held ..

/-- So the scan follows every trace of that language. -/
theorem scan_follows {p : BusPos} {tr : List BusEvent} (h : tracePos tr = some p) :
    Scan.Follows p tr ((tr.flatMap eventWave).foldl scanSample Scan.idle) := by
  induction tr using List.reverseRecOn generalizing p with
  | nil =>
    cases h
    exact .free []
  | append_singleton tr e ih =>
    rw [tracePos_concat] at h
    obtain ⟨q, hq, he⟩ := Option.bind_eq_some_iff.1 h
    rw [List.flatMap_append, List.flatMap_singleton, List.foldl_append]
    exact (ih hq).concat he

/-- With no byte in progress the scan has found all events. -/
theorem Scan.Follows.events_eq {p : BusPos} {tr : List BusEvent} {st : Scan} (h : Follows p tr st)
    (hp : p = .free ∨ p = .held) : st.events = tr := by
  cases h with
  | free | held => rfl
  | byteIn => simp at hp

/-! ## The lines at rest -/

/-- The last sample of a trace is its last event's, the closing edge included. -/
theorem waveform_concat_getLast? (tr : List BusEvent) (e : BusEvent) :
    (waveform (tr ++ [e])).getLast? = (eventWave e ++ closing e).getLast? := by
  have hne : eventWave e ++ closing e ≠ [] := by cases e <;> simp [eventWave, byteWave, bitWave]
  have hend : traceEnd (tr ++ [e]) = closing e := by rw [traceEnd, List.getLast?_concat]
  rw [waveform, hend, List.flatMap_append, List.flatMap_singleton, ← List.cons_append, List.append_assoc,
    List.getLast?_append_of_ne_nil _ hne]

/-- `P`, and no other event, leaves the bus free. -/
theorem BusPos.next_eq_free_iff {q p : BusPos} {e : BusEvent} (h : q.next e = some p) : p = .free ↔ e = .stop := by
  cases q <;> cases e <;> cases h <;> simp

/-- `P` releases both lines (R243). -/
theorem getLast?_eventWave_stop : (eventWave .stop ++ closing .stop).getLast? = some Sample.released := rfl

/-- Every other event leaves `SCL` low (R241, R242, R244). -/
theorem getLast?_eventWave_of_ne_stop {e : BusEvent} (h : e ≠ .stop) :
    (eventWave e ++ closing e).getLast?.map Sample.scl = some false := by
  cases e
  case stop => exact absurd rfl h
  case start | restart => rfl
  case tx | rxd | mack => simp [closing]

/-- A free bus is one before its first event or after a `P`: the waveform ends with both lines released. -/
theorem waveform_getLast?_of_free {tr : List BusEvent} (h : tracePos tr = some .free) :
    (waveform tr).getLast? = some Sample.released := by
  obtain rfl | ⟨tr, e, rfl⟩ := tr.eq_nil_or_concat'
  · rfl
  · rw [tracePos_concat] at h
    obtain ⟨q, -, he⟩ := Option.bind_eq_some_iff.1 h
    obtain rfl := (BusPos.next_eq_free_iff he).1 rfl
    rw [waveform_concat_getLast?, getLast?_eventWave_stop]

/-- Inside a transaction there is a last event, and it is no `P`: the waveform ends with `SCL` low. -/
theorem waveform_getLast?_scl_of_ne_free {tr : List BusEvent} {p : BusPos} (h : tracePos tr = some p)
    (hp : p ≠ .free) : (waveform tr).getLast?.map Sample.scl = some false := by
  obtain rfl | ⟨tr, e, rfl⟩ := tr.eq_nil_or_concat'
  · exact absurd (Option.some.inj h).symm hp
  · rw [tracePos_concat] at h
    obtain ⟨q, -, he⟩ := Option.bind_eq_some_iff.1 h
    rw [waveform_concat_getLast?, getLast?_eventWave_of_ne_stop (mt (BusPos.next_eq_free_iff he).2 hp)]

/-- The block releases both lines while `OWNED = 0` (R240). -/
theorem State.lines_of_free {s : State} (h : s.sstat.owned = false) : s.lines = Sample.released := by
  simp [State.lines, State.linesReleased, h]

/-- Where `OWNED = 1` and `ON = 1` the lines stand as the trace has left them. -/
theorem State.lines_of_owned {s : State} (ho : s.sstat.owned = true) (hon : s.i2ccon.on = true) :
    s.lines = s.waveform.getLast?.getD Sample.released := by
  simp [State.lines, State.linesReleased, ho, hon]

/-- In a coherent state `OWNED = 1` says that a transaction is open, so `SCL` is low. -/
theorem State.lines_scl_of_owned {s : State} (h : s.coherent = true) (ho : s.sstat.owned = true)
    (hon : s.i2ccon.on = true) : s.lines.scl = false := by
  obtain ⟨p, hp, howned⟩ := s.bracketed_of_coherent h
  obtain ⟨x, hx, hscl⟩ := Option.map_eq_some_iff.1 (waveform_getLast?_scl_of_ne_free hp (howned.1 ho))
  rw [State.lines_of_owned ho hon, State.waveform, hx, Option.getD_some, hscl]

/-- Settles O59: the scan follows the trace event by event, and the last event is a `P` exactly on a free bus. -/
theorem scanRecoversTheTrace : Obligations.ScanRecoversTheTrace := by
  refine ⟨fun tr h => ?_, fun tr => waveform_getLast?_of_free, fun tr h => ?_, fun s h => ⟨fun ho => ?_, ?_⟩⟩
  · rw [waveform, scan_released_append_traceEnd]
    obtain hp | hp := h
    · exact (scan_follows hp).events_eq (.inl rfl)
    · exact (scan_follows hp).events_eq (.inr rfl)
  · obtain hp | hp := h
    · exact waveform_getLast?_scl_of_ne_free hp nofun
    · exact waveform_getLast?_scl_of_ne_free hp nofun
  · rw [State.lines_of_free ho]
    exact ⟨rfl, rfl⟩
  · exact State.lines_scl_of_owned h

end Sys2Proof.Machine
end

section
/-! Hazards and reset (R24, R290, R291, R300, R306): a word written too early is lost and leaves `OVR` set, a
configuration write on a busy or held engine is ignored, and a reset turn gives the reset state. -/

namespace Sys2Proof.Machine

/-! ## A word written while a command runs -/

/-- A command issued while another one runs is lost (R300). -/
theorem exec_of_busy {s : State} (hb : s.sstat.busy = true) (i : Instr) : exec i s = .next s.overrun := by
  simp [exec_eq_issue, issue, hb]

/-- So is an illegal word: it is not examined, so it is not refused either. -/
theorem issueIllegal_of_busy {s : State} (hb : s.sstat.busy = true) (w : Word) : issueIllegal w s = s.overrun := by
  simp [issueIllegal, hb]

/-- So is any word. -/
theorem issueWord_of_busy {s : State} (hb : s.sstat.busy = true) (w : Word) : issueWord w s = .next s.overrun := by
  obtain ⟨i, -, -, e⟩ | ⟨-, e⟩ := issueWord_cases w s
  · rw [e, exec_of_busy hb]
  · rw [e, issueIllegal_of_busy hb]

/-! ## `OVR` is sticky -/

/-- A word written to `CMD` leaves `OVR` set: a lost word sets it again, an examined word does not touch it. -/
theorem issueWord_keeps_ovr {w : Word} {s t : State} (h : issueWord w s = .next t) (ho : s.sstat.ovr = true) :
    t.sstat.ovr = true := by
  cases hb : s.sstat.busy with
  | true =>
    cases (issueWord_of_busy hb w).symm.trans h
    rfl
  | false =>
    obtain ⟨i, -, -, e⟩ | ⟨-, e⟩ := issueWord_cases w s
    · rw [exec_ovr (e.symm.trans h) hb, ho]
    · cases e.symm.trans h
      rw [issueIllegal_of_not_busy hb]
      exact ho

/-- A host access leaves `OVR` set, whatever it reads or writes. -/
theorem hostTurn_keeps_ovr {p : HostPort} {s t : State} (h : hostTurn p s = .next t) (ho : s.sstat.ovr = true) :
    t.sstat.ovr = true := by
  cases hw : p.we with
  | false =>
    cases (hostTurn_of_read hw s).symm.trans h
    simpa using ho
  | true =>
    by_cases ha : p.addr = cmdReg
    · exact issueWord_keeps_ovr ((hostTurn_of_command hw ha s).symm.trans h) (by simpa using ho)
    · cases (hostTurn_of_write hw ha s).symm.trans h
      simpa using ho

/-- No turn of the block or its environment writes `OVR`. -/
@[simp] theorem blockTurn_ovr (prog : List MicroStep) (t : Turn) (s : State) :
    (blockTurn prog t s).sstat.ovr = s.sstat.ovr :=
  (blockTurn_same (f := .ovr) (leaves_of_isStatic rfl prog) t fun a _ => a.mem_all).2

/-- Settles O9: a busy block loses the word, and only reset writes 0 to `OVR`. -/
theorem overrunLosesTheWord : Obligations.OverrunLosesTheWord := by
  refine ⟨fun s w hb => ⟨issueWord_of_busy hb w, exec_of_busy hb⟩, ?sticky, fun s => ⟨s.resetBlock, rfl, rfl⟩⟩
  case sticky =>
    intro s u t ho ht h
    cases t with
    | reset => exact absurd rfl ht
    | host p => exact hostTurn_keeps_ovr h ho
    | sequencer | engine x | delayPin level =>
      cases h
      rw [blockTurn_ovr, ho]

/-! ## Configuration writes -/

/-- The host may configure the engine while no command runs and the bus is free (R24). -/
theorem State.configurable_iff (s : State) :
    s.configurable = true ↔ s.sstat.busy = false ∧ s.sstat.owned = false := by
  simp [State.configurable]

/-- Settles O41: `hostWrite` lets a write of either register through where the host may configure. -/
theorem hostConfiguresOnlyWhenFree : Obligations.HostConfiguresOnlyWhenFree := by
  intro s v
  have hcon : s.hostWrite 0#4 v = if s.configurable then s.writeCon v else s := rfl
  have hbrg : s.hostWrite 2#4 v = if s.configurable then s.writeBrg v else s := rfl
  simp only [hcon, hbrg, s.configurable_iff, State.writeCon, State.writeBrg, and_self]

/-! ## A reset turn -/

/-- Settles O44: the step is the reset turn, which keeps only what is not the block's. -/
theorem resetTurnFromAnyState : Obligations.ResetTurnFromAnyState := by
  intro s rest h
  rw [step_of_schedule_cons h]
  rfl

end Sys2Proof.Machine
end
